-- ==== Sys2Proof/Word.lean ====
section
/-! DEFINITION. Word.lean: the two word types of the block.
Widths: spec/00_scope.md R7 (`ARG_W`, `OP_W`, `CMD_W`); numbers are unsigned (R8). -/

namespace Sys2Proof

/-- An operand or a 32-bit register: unsigned (R7 `ARG_W`, R8). -/
abbrev Word := BitVec 32

/-- A command word: the opcode in bits 35 to 32, the operand in bits 31 to 0 (R60). -/
abbrev CmdWord := BitVec 36

end Sys2Proof
end

