-- ==== Sys2Proof/Syntax.lean ====
section
/-! DEFINITION. Syntax.lean: the operations of the block, one constructor for each row of
spec/opcode_table.json: the eight operations (R63) and the eight reserved opcodes (R64).
An operand is the 32-bit `arg` exactly as presented (R62).
STEPONCE, VERSION and the reserved opcodes carry none: whatever stands in `arg` is ignored (R62 (d), R71, R131). -/

namespace Sys2Proof

inductive Instr where
  /-- SETDELAY, opcode 0x1 (R100). -/
  | setDelay (delayMicros : Word)
  /-- ENABLE, opcode 0x2 (R93, R94). -/
  | enable (on : Word)
  /-- SETDIR, opcode 0x3 (R90). -/
  | setDir (direction : Word)
  /-- STEP, opcode 0x4 (R112, R117). -/
  | step (count : Word)
  /-- STEPONCE, opcode 0x5 (R111). -/
  | stepOnce
  /-- SETMODE, opcode 0x6 (R82, R83). -/
  | setMode (mode : Word)
  /-- SETSPEED, opcode 0x7 (R102, R103). -/
  | setSpeed (revsPerMinute : Word)
  /-- VERSION, opcode 0x8 (R130). -/
  | version
  /-- Reserved opcode 0x0 (R131). -/
  | reserved0
  /-- Reserved opcode 0x9 (R131). -/
  | reserved9
  /-- Reserved opcode 0xA (R131). -/
  | reservedA
  /-- Reserved opcode 0xB (R131). -/
  | reservedB
  /-- Reserved opcode 0xC (R131). -/
  | reservedC
  /-- Reserved opcode 0xD (R131). -/
  | reservedD
  /-- Reserved opcode 0xE (R131). -/
  | reservedE
  /-- Reserved opcode 0xF (R131). -/
  | reservedF
deriving DecidableEq, Repr

end Sys2Proof
end

