-- ==== Sys2Proof/Decode.lean ====
section
/-! DEFINITION. Decode.lean: the command word (R60), the decoder (R71), the encoder (R67, R71) and the opcode table
(spec/opcode_table.json).
Decoding is total: every one of the 2^36 words is one of the eight operations or a reserved opcode, named by its digit.
Words travel in parallel (R44), so there is no byte order and no length to find (R66). -/

namespace Sys2Proof

/-- `cmd[35:32]`, the opcode field (R60). -/
def CmdWord.op (w : CmdWord) : BitVec 4 := w.extractLsb' 32 4

/-- `cmd[31:0]`, the operand field (R60). -/
def CmdWord.arg (w : CmdWord) : Word := w.extractLsb' 0 32

/-- The word `cmd_op` above `cmd_arg` (R60). -/
def CmdWord.ofFields (op : BitVec 4) (arg : Word) : CmdWord := op ++ arg

/-- R63, R64, R71: the operation an opcode selects, with its operand. The last arm is opcode 0xF, the only one left. -/
def decodeFields (op : BitVec 4) (arg : Word) : Instr :=
  match op with
  | 0x0#4 => .reserved0
  | 0x1#4 => .setDelay arg
  | 0x2#4 => .enable arg
  | 0x3#4 => .setDir arg
  | 0x4#4 => .step arg
  | 0x5#4 => .stepOnce
  | 0x6#4 => .setMode arg
  | 0x7#4 => .setSpeed arg
  | 0x8#4 => .version
  | 0x9#4 => .reserved9
  | 0xA#4 => .reservedA
  | 0xB#4 => .reservedB
  | 0xC#4 => .reservedC
  | 0xD#4 => .reservedD
  | 0xE#4 => .reservedE
  | _ => .reservedF

/-- R71: `decode(cmd)`. -/
def decode (w : CmdWord) : Instr := decodeFields w.op w.arg

/-- The opcode of an operation (R63, R64). -/
def Instr.opcode : Instr → BitVec 4
  | .setDelay _ => 0x1#4
  | .enable _ => 0x2#4
  | .setDir _ => 0x3#4
  | .step _ => 0x4#4
  | .stepOnce => 0x5#4
  | .setMode _ => 0x6#4
  | .setSpeed _ => 0x7#4
  | .version => 0x8#4
  | .reserved0 => 0x0#4
  | .reserved9 => 0x9#4
  | .reservedA => 0xA#4
  | .reservedB => 0xB#4
  | .reservedC => 0xC#4
  | .reservedD => 0xD#4
  | .reservedE => 0xE#4
  | .reservedF => 0xF#4

/-- The operand field an assembler emits: 0 where the operation takes none (R67).
For a reserved opcode, which no assembler emits, 0 is this model's choice (log entry 8). -/
def Instr.operand : Instr → Word
  | .setDelay a => a
  | .enable a => a
  | .setDir a => a
  | .step a => a
  | .stepOnce => 0#32
  | .setMode a => a
  | .setSpeed a => a
  | .version => 0#32
  | .reserved0 => 0#32
  | .reserved9 => 0#32
  | .reservedA => 0#32
  | .reservedB => 0#32
  | .reservedC => 0#32
  | .reservedD => 0#32
  | .reservedE => 0#32
  | .reservedF => 0#32

/-- R67, R71: the command word of an operation. -/
def encode (i : Instr) : CmdWord := CmdWord.ofFields i.opcode i.operand

/-- One row of spec/opcode_table.json: a word `w` is of this row when `w &&& mask = value` (R63). -/
structure OpcodeRow where
  mnemonic : String
  value : CmdWord
  mask : CmdWord
deriving DecidableEq, Repr

/-- Whether the word is of the row. -/
def OpcodeRow.covers (r : OpcodeRow) (w : CmdWord) : Bool := w &&& r.mask == r.value

/-- The rows of spec/opcode_table.json, in its order. -/
def opcodeTable : List OpcodeRow :=
  [⟨"SETDELAY", 0x100000000#36, 0xF00000000#36⟩, ⟨"ENABLE", 0x200000000#36, 0xF00000000#36⟩,
   ⟨"SETDIR", 0x300000000#36, 0xF00000000#36⟩, ⟨"STEP", 0x400000000#36, 0xF00000000#36⟩,
   ⟨"STEPONCE", 0x500000000#36, 0xF00000000#36⟩, ⟨"SETMODE", 0x600000000#36, 0xF00000000#36⟩,
   ⟨"SETSPEED", 0x700000000#36, 0xF00000000#36⟩, ⟨"VERSION", 0x800000000#36, 0xF00000000#36⟩,
   ⟨"RESERVED_0", 0x000000000#36, 0xF00000000#36⟩, ⟨"RESERVED_9", 0x900000000#36, 0xF00000000#36⟩,
   ⟨"RESERVED_A", 0xA00000000#36, 0xF00000000#36⟩, ⟨"RESERVED_B", 0xB00000000#36, 0xF00000000#36⟩,
   ⟨"RESERVED_C", 0xC00000000#36, 0xF00000000#36⟩, ⟨"RESERVED_D", 0xD00000000#36, 0xF00000000#36⟩,
   ⟨"RESERVED_E", 0xE00000000#36, 0xF00000000#36⟩, ⟨"RESERVED_F", 0xF00000000#36, 0xF00000000#36⟩]

/-- The mnemonic the opcode table gives the operation. -/
def Instr.mnemonic : Instr → String
  | .setDelay _ => "SETDELAY"
  | .enable _ => "ENABLE"
  | .setDir _ => "SETDIR"
  | .step _ => "STEP"
  | .stepOnce => "STEPONCE"
  | .setMode _ => "SETMODE"
  | .setSpeed _ => "SETSPEED"
  | .version => "VERSION"
  | .reserved0 => "RESERVED_0"
  | .reserved9 => "RESERVED_9"
  | .reservedA => "RESERVED_A"
  | .reservedB => "RESERVED_B"
  | .reservedC => "RESERVED_C"
  | .reservedD => "RESERVED_D"
  | .reservedE => "RESERVED_E"
  | .reservedF => "RESERVED_F"

/-- The command word whose bits are `w`, of which `nbits` are given and the bits above are 0.
There is none where a bit above bit 35 is set: the format has 36 bits (R60). -/
def tableWord (nbits w : Nat) : Option CmdWord :=
  if w % 2 ^ nbits < 2 ^ 36 then some (BitVec.ofNat 36 (w % 2 ^ nbits)) else none

/-- What the decoder reads from an instruction whose bits are `w`, numbered as spec/opcode_table.json numbers them. -/
def decodeTableWord (nbits w : Nat) : Option Instr := (tableWord nbits w).map decode

end Sys2Proof
end

