-- ==== Sys2Proof/Config.lean ====
section
/-! DEFINITION. Config.lean: the constants of one block (R7, R31): nothing writes them, so they are not state.
The two that the spec leaves OPEN have no body: what is proved holds for every value of them (log entries 1 and 2).
`MODE_TABLE` is `Config.modeTable`, declared in Machine/Operands.lean, where a corrected table can be put in (R7, C3). -/

namespace Sys2Proof.Config

/-- `HAS_EN`: whether the optional enable line exists (R7, R31, D23). OPEN, so it has no body (log entry 1). -/
opaque hasEn : Bool

/-- `VERSION_ID`: the integer VERSION returns (R7, R130, D18). OPEN, so it has no body (log entry 2). -/
opaque versionId : Word

/-- `DEFAULT_DELAY_US`: the reset value of `stepDelayMicros`, in microseconds (R7, R12). -/
def defaultDelayUs : Word := 2000#32

/-- `DEFAULT_SPR`: what `stepsPerRevolution` takes when `cfg_spr` is zero (R7, R13). -/
def defaultSpr : Word := 200#32

/-- `SPEED_NUMERATOR`: microseconds in a minute, the dividend of SETSPEED (R7, R102). -/
def speedNumerator : Word := 60000000#32

/-- `RESET_LINES`: the levels of the five lines after reset, all LOW (R7, R163, D14). -/
def resetLines : BitVec 5 := 0b00000#5

end Sys2Proof.Config
end

