-- ==== Sys2Proof/Machine/State.lean ====
section
/-! DEFINITION. Machine/State.lean: everything the spec gives the machine (spec/10_state.md), and the state right after
reset (spec/70_reset_and_hazards.md R162 to R165).
The last field, `inputs`, is the model's own: what the host puts on the input ports, edge after edge (log entry 3). -/

namespace Sys2Proof.Machine

/-- The nine step modes (R14): mode `m` asks for the step fraction `1/m`. -/
inductive StepMode where
  | m1 | m2 | m4 | m8 | m16 | m32 | m64 | m128 | m256
deriving DecidableEq, Repr

/-- The five lines (R18). STEP is also MODE3 and DIR is also MODE4 (R19). EN exists only when `HAS_EN`. -/
inductive Line where
  | mode1 | mode2 | step | dir | en
deriving DecidableEq, Repr

/-- `seq_state` (R23): no blocking operation in progress, or the HIGH or the LOW phase of a step pulse being held. -/
inductive SeqState where
  | idle | phHigh | phLow
deriving DecidableEq, Repr

/-- `rsp_status` (R70). Code 3 is never produced, so it has no constructor (V2 of spec/93). -/
inductive Status where
  | ok | errDiv0 | errBadOp
deriving DecidableEq, Repr

/-- What stands on the input ports at one rising edge of the clock (R27, R121). -/
structure PortInput where
  rst : Bool
  cfgSpr : Word
  cmdValid : Bool
  cmdOp : BitVec 4
  cmdArg : Word
deriving DecidableEq, Repr

/-- The whole state of the block, and the input waveform still to come. -/
structure State where
  /-- R11. -/
  direction : Bool
  /-- R12. -/
  stepDelayMicros : Word
  /-- R13. -/
  stepsPerRevolution : Word
  /-- R14. -/
  currentStepMode : StepMode
  /-- `LINES[4:0]` (R18): the line registers, which are the whole line space (R40). -/
  lines : BitVec 5
  /-- R23. -/
  seqState : SeqState
  /-- `hold_left` (R24): the phase timer (R151). -/
  holdLeft : Word
  /-- `steps_left` (R25). -/
  stepsLeft : Word
  /-- `rsp_valid` (R26). -/
  rspValid : Bool
  /-- `rsp_status` (R26, R70). -/
  rspStatus : Status
  /-- `rsp_data` (R26). -/
  rspData : Word
  /-- The model's own field (log entry 3): the inputs of the coming edges, the next edge first. -/
  inputs : List PortInput
deriving DecidableEq, Repr

/-- Why the machine stops with a fault: there is no such reason.
The block's two errors, `ERR_DIV0` and `ERR_BADOP`, are reported on the response port and it goes on (R140, R144);
there is no hang and no stuck state (R120). Nobody raises a fault. -/
inductive Fault where
deriving DecidableEq, Repr

/-- Why an operation has no meaning in the model. -/
inductive Refusal where
  /-- An arm of `exec` without a meaning would answer this (safe: it stops). No arm does: every row has its meaning. -/
  | notModelled (mnemonic : String)
deriving DecidableEq, Repr

/-- The state a rising edge with `rst = 1` leaves, for the value of `cfg_spr` at that edge (R162 to R165), with nothing
on the ports afterwards. -/
def State.resetWith (cfgSpr : Word) : State where
  direction := false
  stepDelayMicros := Config.defaultDelayUs
  stepsPerRevolution := if cfgSpr = 0#32 then Config.defaultSpr else cfgSpr
  currentStepMode := .m1
  lines := Config.resetLines
  seqState := .idle
  holdLeft := 0#32
  stepsLeft := 0#32
  rspValid := false
  rspStatus := .ok
  rspData := 0#32
  inputs := []

/-- The machine right after reset. `cfg_spr` is an input the spec leaves OPEN (R7, D22): here it was 0, the start state
of spec/95_test_vectors.md (log entry 4). Every other value of it is reached by an edge with `rst = 1`. -/
def State.reset : State := State.resetWith 0#32

end Sys2Proof.Machine
end

