-- ==== Sys2Proof/Machine/Operands.lean ====
section
/-! DEFINITION. Machine/Operands.lean: every form an operand takes, and the two tables and the one arithmetic the operations
compute with: zero tests (R62 (c)), the nine modes (R80), the mode table (R81), the phase length (R113) and the
quotient of SETSPEED (R102, R105). -/

namespace Sys2Proof

/-- `MODE_TABLE` (R81): the pattern `MODE4, MODE3, MODE2, MODE1` of each mode, as the source prints it, the two equal
rows 64 and 256 included (C3). -/
def Config.modeTable : Machine.StepMode → BitVec 4
  | .m1 => 0b0000#4
  | .m2 => 0b0101#4
  | .m4 => 0b1010#4
  | .m8 => 0b1101#4
  | .m16 => 0b1111#4
  | .m32 => 0b0010#4
  | .m64 => 0b1011#4
  | .m128 => 0b1001#4
  | .m256 => 0b1011#4

namespace Machine

/-- The test SETDIR and ENABLE make of their whole 32-bit operand (R62 (c)). -/
def isNonzero (a : Word) : Bool := a != 0#32

/-- The value of a mode (R14). -/
def StepMode.value : StepMode → Word
  | .m1 => 1#32
  | .m2 => 2#32
  | .m4 => 4#32
  | .m8 => 8#32
  | .m16 => 16#32
  | .m32 => 32#32
  | .m64 => 64#32
  | .m128 => 128#32
  | .m256 => 256#32

/-- The nine modes (R14). -/
def StepMode.all : List StepMode := [.m1, .m2, .m4, .m8, .m16, .m32, .m64, .m128, .m256]

/-- The mode a 32-bit operand names, if it names one (R80): all 32 bits take part (R62 (b)). -/
def modeOf (a : Word) : Option StepMode := StepMode.all.find? (fun m => m.value == a)

/-- R80. -/
def validMode (a : Word) : Bool := (modeOf a).isSome

/-- The index of a line in the line space (R18, R40). -/
def Line.index : Line → Nat
  | .mode1 => 0
  | .mode2 => 1
  | .step => 2
  | .dir => 3
  | .en => 4

/-- The five lines (R18). -/
def Line.all : List Line := [.mode1, .mode2, .step, .dir, .en]

/-- R113: a hold of `d` microseconds lasts `eff d` cycles. -/
def eff (d : Word) : Word := if d = 0#32 then 1#32 else d

/-- R102, R105: the two truncating unsigned divisions of SETSPEED, in the order written.
It is asked only where neither divisor is zero (R103). -/
def speedDelay (stepsPerRevolution revsPerMinute : Word) : Word :=
  Config.speedNumerator / stepsPerRevolution / revsPerMinute

/-- The code of a status on the port (R70). -/
def Status.code : Status → BitVec 2
  | .ok => 0#2
  | .errDiv0 => 1#2
  | .errBadOp => 2#2

/-- The two errors of the block (R140). -/
inductive OpError where
  /-- SETSPEED with a zero divisor (R141). -/
  | div0
  /-- A reserved opcode (R142). -/
  | badOp
deriving DecidableEq, Repr

/-- The status that reports an error (R141, R142). -/
def OpError.status : OpError → Status
  | .div0 => .errDiv0
  | .badOp => .errBadOp

end Machine

end Sys2Proof
end

