-- ==== Sys2Proof/Machine/Ops.lean ====
section
/-! DEFINITION. Machine/Ops.lean: the named operations over the registers, the lines, the response channel, the
sequencer and the input ports. Every meaning and the step are written over these.
Raising an error is `State.raise` (R144); there is nothing to return from, so no return stands beside it (R145). -/

namespace Sys2Proof.Machine

/-! ## One setter for each register -/

def State.setDirection (v : Bool) (s : State) : State := { s with direction := v }

def State.setDelayMicros (d : Word) (s : State) : State := { s with stepDelayMicros := d }

def State.setMode (m : StepMode) (s : State) : State := { s with currentStepMode := m }

def State.setLines (ls : BitVec 5) (s : State) : State := { s with lines := ls }

/-- The three sequencer registers together (R23 to R25). -/
def State.setSequencer (q : SeqState) (hold steps : Word) (s : State) : State :=
  { s with seqState := q, holdLeft := hold, stepsLeft := steps }

/-! ## The line space -/

/-- The level of one line. No operation reads it (R43); the wire shows it (R21). -/
def State.line (s : State) (l : Line) : Bool := s.lines.getLsbD l.index

/-- The five line registers with bit `i` at level `v`. -/
def writeBit (ls : BitVec 5) (i : Nat) (v : Bool) : BitVec 5 :=
  if v then ls ||| (1#5 <<< i) else ls &&& ~~~(1#5 <<< i)

/-- `LineWrite(l, v)` (R42): total, and nothing but the one location changes. -/
def State.lineWrite (l : Line) (v : Bool) (s : State) : State := s.setLines (writeBit s.lines l.index v)

/-- SETMODE's write of `LINES[3:0]`, one 4-bit write at one edge (R46, R82); `LINES[4]` stays. -/
def State.writePattern (p : BitVec 4) (s : State) : State := s.setLines (s.lines.extractLsb' 4 1 ++ p)

/-- ENABLE's write of the enable line, which only a block that has one does (R93, R94). -/
def State.enableLine (hasEn : Bool) (on : Word) (s : State) : State :=
  if hasEn then s.lineWrite .en (isNonzero on) else s

/-! ## The response channel -/

/-- `respond(status, data)` (R26). -/
def State.respond (st : Status) (data : Word) (s : State) : State :=
  { s with rspValid := true, rspStatus := st, rspData := data }

/-- `rsp_valid <- 0`, the status and the data kept: an edge at which no operation completes (R26). -/
def State.noResponse (s : State) : State := { s with rspValid := false }

/-- `raise E` (R144): exactly `respond(code(E), 0)`; no state is saved and control goes nowhere. -/
def State.raise (e : OpError) (s : State) : State := s.respond e.status 0#32

/-! ## The sequencer -/

/-- The start of a phase: STEP takes its level and the timer is loaded (R114, R115). -/
def State.openPhase (level : Bool) (q : SeqState) (steps : Word) (s : State) : State :=
  ((s.lineWrite .step level).setSequencer q (eff s.stepDelayMicros - 1#32) steps).noResponse

/-- `start_sequence(n)` (R114). -/
def State.startSequence (n : Word) (s : State) : State := s.openPhase true .phHigh n

/-- The end of the last LOW phase (R116): `hold_left` is not written. -/
def State.finishSequence (s : State) : State := (s.setSequencer .idle s.holdLeft 0#32).respond .ok 0#32

/-- `seq_tick` (R115): one edge of a sequence in progress. -/
def State.seqTick (s : State) : State :=
  if s.holdLeft ≠ 0#32 then (s.setSequencer s.seqState (s.holdLeft - 1#32) s.stepsLeft).noResponse
  else if s.seqState = .phHigh then s.openPhase false .phLow s.stepsLeft
  else if s.stepsLeft ≠ 1#32 then s.openPhase true .phHigh (s.stepsLeft - 1#32)
  else s.finishSequence

/-! ## The input ports -/

/-- Nothing presented (R28: the host may leave `cmd_valid` at 0 for any number of cycles). -/
def PortInput.quiet : PortInput := ⟨false, 0#32, false, 0#4, 0#32⟩

/-- A command word presented (R27, R28). -/
def PortInput.command (w : CmdWord) : PortInput := ⟨false, 0#32, true, w.op, w.arg⟩

/-- Reset asserted, with this `cfg_spr` (R160, R165). -/
def PortInput.reset (cfgSpr : Word) : PortInput := ⟨true, cfgSpr, false, 0#4, 0#32⟩

/-- `{cmd_op, cmd_arg}` (R60). -/
def PortInput.word (p : PortInput) : CmdWord := CmdWord.ofFields p.cmdOp p.cmdArg

/-- What the next edge samples. A waveform that has run out presents nothing (log entry 3). -/
def State.sampled (s : State) : PortInput := s.inputs.headD PortInput.quiet

/-- The waveform moves past the edge. -/
def State.dropInput (s : State) : State := { s with inputs := s.inputs.tail }

/-- A command word stands on the port at the next edge, in place of what stood there. -/
def State.present (w : CmdWord) (s : State) : State := { s with inputs := .command w :: s.inputs.tail }

/-- The state an edge with `rst = 1` leaves (R160, R166): the reset state, whatever the state was. -/
def State.resetEdge (cfgSpr : Word) (s : State) : State := { State.resetWith cfgSpr with inputs := s.inputs }

/-! ## What one rising edge does -/

/-- The four kinds of edge (R121). -/
inductive EdgeAction where
  /-- `rst = 1`. -/
  | reset (cfgSpr : Word)
  /-- A sequence is in progress; the command port is ignored. -/
  | tick
  /-- Idle, and nothing presented. -/
  | quiet
  /-- A command word is accepted. -/
  | accept (w : CmdWord)
deriving DecidableEq, Repr

/-- R28, R121, R146: reset before everything, a running sequence before the command port. -/
def State.edgeAction (s : State) : EdgeAction :=
  if s.sampled.rst then .reset s.sampled.cfgSpr
  else if s.seqState ≠ .idle then .tick
  else if s.sampled.cmdValid then .accept s.sampled.word
  else .quiet

/-- `S'` of R121: the state an edge without reset works on, its default being that no operation completes. -/
def State.atEdge (s : State) : State := s.dropInput.noResponse

end Sys2Proof.Machine
end

