-- ==== Sys2Proof/Machine/DirectLines.lean ====
section
/-! DEFINITION. Machine/DirectLines.lean: SETDIR and ENABLE (spec/41_direction_enable.md). -/

namespace Sys2Proof.Machine

/-- SETDIR (R90): 0 drives DIR HIGH, anything else LOW; the flag keeps whether the operand was nonzero. -/
def execSetDir (direction : Word) (s : State) : Host.Outcome State Fault Refusal :=
  .next (((s.lineWrite .dir (!isNonzero direction)).setDirection (isNonzero direction)).respond .ok 0#32)

/-- ENABLE (R93, R94). -/
def execEnable (on : Word) (s : State) : Host.Outcome State Fault Refusal :=
  .next ((s.enableLine Config.hasEn on).respond .ok 0#32)

end Sys2Proof.Machine
end

