-- ==== Sys2Proof/Machine/ModeEncoder.lean ====
section
/-! DEFINITION. Machine/ModeEncoder.lean: SETMODE (spec/40_mode_encoder.md). -/

namespace Sys2Proof.Machine

/-- SETMODE (R82, R83): a valid mode drives its pattern and is recorded; any other operand changes nothing and is
answered `OK` all the same. -/
def execSetMode (mode : Word) (s : State) : Host.Outcome State Fault Refusal :=
  .next (match modeOf mode with
    | some m => ((s.writePattern (Config.modeTable m)).setMode m).respond .ok 0#32
    | none => s.respond .ok 0#32)

end Sys2Proof.Machine
end

