-- ==== Sys2Proof/Machine/Sequencer.lean ====
section
/-! DEFINITION. Machine/Sequencer.lean: STEPONCE and STEP at the edge that accepts them (spec/43_pulse_sequencer.md).
The edges that follow are `State.seqTick` (R115), which the step takes while the block is busy. -/

namespace Sys2Proof.Machine

/-- STEPONCE (R111, R114). -/
def execStepOnce (s : State) : Host.Outcome State Fault Refusal :=
  .next (s.startSequence 1#32)

/-- STEP (R112, R114); a count of 0 is a no-op that completes at once (R117). -/
def execStep (count : Word) (s : State) : Host.Outcome State Fault Refusal :=
  .next (if count = 0#32 then s.respond .ok 0#32 else s.startSequence count)

end Sys2Proof.Machine
end

