-- ==== Sys2Proof/Machine/System.lean ====
section
/-! DEFINITION. Machine/System.lean: VERSION and the reserved opcodes (spec/44_version_reserved.md). -/

namespace Sys2Proof.Machine

/-- VERSION (R130). -/
def execVersion (s : State) : Host.Outcome State Fault Refusal :=
  .next (s.respond .ok Config.versionId)

/-- Reserved opcode 0x0 (R131): `ERR_BADOP`, and nothing else changes. -/
def execReserved0 (s : State) : Host.Outcome State Fault Refusal :=
  .next (s.raise .badOp)

/-- Reserved opcode 0x9 (R131): `ERR_BADOP`, and nothing else changes. -/
def execReserved9 (s : State) : Host.Outcome State Fault Refusal :=
  .next (s.raise .badOp)

/-- Reserved opcode 0xA (R131): `ERR_BADOP`, and nothing else changes. -/
def execReservedA (s : State) : Host.Outcome State Fault Refusal :=
  .next (s.raise .badOp)

/-- Reserved opcode 0xB (R131): `ERR_BADOP`, and nothing else changes. -/
def execReservedB (s : State) : Host.Outcome State Fault Refusal :=
  .next (s.raise .badOp)

/-- Reserved opcode 0xC (R131): `ERR_BADOP`, and nothing else changes. -/
def execReservedC (s : State) : Host.Outcome State Fault Refusal :=
  .next (s.raise .badOp)

/-- Reserved opcode 0xD (R131): `ERR_BADOP`, and nothing else changes. -/
def execReservedD (s : State) : Host.Outcome State Fault Refusal :=
  .next (s.raise .badOp)

/-- Reserved opcode 0xE (R131): `ERR_BADOP`, and nothing else changes. -/
def execReservedE (s : State) : Host.Outcome State Fault Refusal :=
  .next (s.raise .badOp)

/-- Reserved opcode 0xF (R131): `ERR_BADOP`, and nothing else changes. -/
def execReservedF (s : State) : Host.Outcome State Fault Refusal :=
  .next (s.raise .badOp)

end Sys2Proof.Machine
end

