-- ==== Sys2Proof/Machine/Timing.lean ====
section
/-! DEFINITION. Machine/Timing.lean: SETDELAY and SETSPEED (spec/42_delay_speed.md). -/

namespace Sys2Proof.Machine

/-- SETDELAY (R100, R101): the delay is overwritten, without a bounds check. -/
def execSetDelay (delayMicros : Word) (s : State) : Host.Outcome State Fault Refusal :=
  .next ((s.setDelayMicros delayMicros).respond .ok 0#32)

/-- SETSPEED (R102, R103): the guard comes before any division. -/
def execSetSpeed (revsPerMinute : Word) (s : State) : Host.Outcome State Fault Refusal :=
  .next (if revsPerMinute = 0#32 ∨ s.stepsPerRevolution = 0#32 then s.raise .div0
    else (s.setDelayMicros (speedDelay s.stepsPerRevolution revsPerMinute)).respond .ok 0#32)

end Sys2Proof.Machine
end

