-- ==== Sys2Proof/Machine/Dispatch.lean ====
section
/-! DEFINITION. Machine/Dispatch.lean: one arm for each operation: what the edge that accepts it does (R121). -/

namespace Sys2Proof.Machine

def exec (i : Instr) (s : State) : Host.Outcome State Fault Refusal :=
  match i with
  | .setDelay delayMicros => Sys2Proof.Machine.execSetDelay delayMicros s
  | .enable on => Sys2Proof.Machine.execEnable on s
  | .setDir direction => Sys2Proof.Machine.execSetDir direction s
  | .step count => Sys2Proof.Machine.execStep count s
  | .stepOnce => Sys2Proof.Machine.execStepOnce s
  | .setMode mode => Sys2Proof.Machine.execSetMode mode s
  | .setSpeed revsPerMinute => Sys2Proof.Machine.execSetSpeed revsPerMinute s
  | .version => Sys2Proof.Machine.execVersion s
  | .reserved0 => Sys2Proof.Machine.execReserved0 s
  | .reserved9 => Sys2Proof.Machine.execReserved9 s
  | .reservedA => Sys2Proof.Machine.execReservedA s
  | .reservedB => Sys2Proof.Machine.execReservedB s
  | .reservedC => Sys2Proof.Machine.execReservedC s
  | .reservedD => Sys2Proof.Machine.execReservedD s
  | .reservedE => Sys2Proof.Machine.execReservedE s
  | .reservedF => Sys2Proof.Machine.execReservedF s

end Sys2Proof.Machine
end

