-- ==== Sys2Proof/Machine/Step.lean ====
section
/-! DEFINITION. Machine/Step.lean: one step is one rising edge of the clock (R8, R121), with the inputs of that edge. -/

namespace Sys2Proof.Machine

/-- The next-state function of the block (R121). -/
def step (s : State) : Host.Outcome State Fault Refusal :=
  match s.edgeAction with
  | .reset cfgSpr => .next (s.dropInput.resetEdge cfgSpr)
  | .tick => .next s.atEdge.seqTick
  | .quiet => .next s.atEdge
  | .accept w => exec (decode w) s.atEdge

/-- The command word `w` on the command port at the next edge, and a block that accepts it there.
Only an idle block accepts a command (R28, R118), so a sequence that `s` is in the middle of is not there any more; in an
idle `s` nothing but the input of the next edge changes (log entry 5). -/
def State.withFetchWord (s : State) (nbits w : Nat) : State :=
  (if s.seqState = .idle then s else s.setSequencer .idle s.holdLeft 0#32).present (BitVec.ofNat 36 (w % 2 ^ nbits))

end Sys2Proof.Machine
end

