-- ==== Sys2Proof/Machine/OpLevel.lean ====
section
/-! DEFINITION. Machine/OpLevel.lean: the operation level (R9 (a)): for each operation its ordered line writes and holds, the
DriverState it leaves and the response that ends it, written from the operation-level pseudocode of the rules
R82, R83, R90, R93, R94, R100, R102, R103, R111, R112, R117, R130 and R131, with no clock.
`levelsAt` plays such an event list against the clock, each hold lasting exactly `eff n` cycles (R113). -/

namespace Sys2Proof.Machine

/-- The two events of the operation level (R8, R9). -/
inductive OpEvent where
  /-- `LineWrite(l, v)`. -/
  | lineWrite (l : Line) (v : Bool)
  /-- `Hold(n)`, a wait of `n` microseconds. -/
  | hold (micros : Word)
deriving DecidableEq, Repr

/-- DriverState (R10). -/
structure DriverState where
  direction : Bool
  stepDelayMicros : Word
  stepsPerRevolution : Word
  currentStepMode : StepMode
deriving DecidableEq, Repr

/-- The DriverState the machine holds. -/
def State.driver (s : State) : DriverState :=
  ⟨s.direction, s.stepDelayMicros, s.stepsPerRevolution, s.currentStepMode⟩

/-- One HIGH/LOW pulse pair with the delay `d` (R111). -/
def pulseEvents (d : Word) : List OpEvent :=
  [.lineWrite .step true, .hold d, .lineWrite .step false, .hold d]

/-- The line writes of a pattern, in the order R82 lists them. -/
def patternEvents (p : BitVec 4) : List OpEvent :=
  [.lineWrite .mode1 (p.getLsbD 0), .lineWrite .mode2 (p.getLsbD 1), .lineWrite .step (p.getLsbD 2),
   .lineWrite .dir (p.getLsbD 3)]

/-- The ordered events of an operation. -/
def events (hasEn : Bool) (i : Instr) (d : DriverState) : List OpEvent :=
  match i with
  | .setDelay _ => []
  | .enable on => if hasEn then [.lineWrite .en (on != 0#32)] else []
  | .setDir direction => [.lineWrite .dir (direction == 0#32)]
  | .step count => (List.replicate count.toNat (pulseEvents d.stepDelayMicros)).flatten
  | .stepOnce => pulseEvents d.stepDelayMicros
  | .setMode mode => (modeOf mode).elim [] (fun m => patternEvents (Config.modeTable m))
  | .setSpeed _ => []
  | .version => []
  | .reserved0 => []
  | .reserved9 => []
  | .reservedA => []
  | .reservedB => []
  | .reservedC => []
  | .reservedD => []
  | .reservedE => []
  | .reservedF => []

/-- The DriverState an operation leaves (R35). -/
def driverAfter (i : Instr) (d : DriverState) : DriverState :=
  match i with
  | .setDelay delayMicros => { d with stepDelayMicros := delayMicros }
  | .enable _ => d
  | .setDir direction => { d with direction := direction != 0#32 }
  | .step _ => d
  | .stepOnce => d
  | .setMode mode => { d with currentStepMode := (modeOf mode).getD d.currentStepMode }
  | .setSpeed revsPerMinute =>
      if revsPerMinute = 0#32 ∨ d.stepsPerRevolution = 0#32 then d
      else { d with stepDelayMicros := speedDelay d.stepsPerRevolution revsPerMinute }
  | .version => d
  | .reserved0 => d
  | .reserved9 => d
  | .reservedA => d
  | .reservedB => d
  | .reservedC => d
  | .reservedD => d
  | .reservedE => d
  | .reservedF => d

/-- The status and the data an operation responds with (R70). -/
def responseOf (i : Instr) (d : DriverState) : Status × Word :=
  match i with
  | .setDelay _ => (.ok, 0#32)
  | .enable _ => (.ok, 0#32)
  | .setDir _ => (.ok, 0#32)
  | .step _ => (.ok, 0#32)
  | .stepOnce => (.ok, 0#32)
  | .setMode _ => (.ok, 0#32)
  | .setSpeed revsPerMinute =>
      (if revsPerMinute = 0#32 ∨ d.stepsPerRevolution = 0#32 then .errDiv0 else .ok, 0#32)
  | .version => (.ok, Config.versionId)
  | .reserved0 => (.errBadOp, 0#32)
  | .reserved9 => (.errBadOp, 0#32)
  | .reservedA => (.errBadOp, 0#32)
  | .reservedB => (.errBadOp, 0#32)
  | .reservedC => (.errBadOp, 0#32)
  | .reservedD => (.errBadOp, 0#32)
  | .reservedE => (.errBadOp, 0#32)
  | .reservedF => (.errBadOp, 0#32)

/-- How many cycles the events take: their holds, and nothing else (R113, R182). -/
def eventCycles : List OpEvent → Nat
  | [] => 0
  | .lineWrite _ _ :: es => eventCycles es
  | .hold n :: es => (eff n).toNat + eventCycles es

/-- The levels of the lines `c` cycles after the events began, the lines having been `ls` before them. -/
def levelsAt (ls : BitVec 5) : List OpEvent → Nat → BitVec 5
  | [], _ => ls
  | .lineWrite l v :: es, c => levelsAt (writeBit ls l.index v) es c
  | .hold n :: es, c => if c < (eff n).toNat then ls else levelsAt ls es (c - (eff n).toNat)

end Sys2Proof.Machine
end

