-- ==== Sys2Proof/Machine/Text.lean ====
section
/-! DEFINITION. Machine/Text.lean: the textual form of an operation (R67): `setStepMode(16)` or `SETMODE 16`, one a line, the
operand an unsigned decimal or `0x` hexadecimal number; and `RESET cfg_spr=<n>` for construction (D32).
A line is a list of characters. Blanks stand at the ends of a line, and one between mnemonic and operand; `;` begins a
comment, as in spec/95_test_vectors.md (log entry 7). -/

namespace Sys2Proof.Machine

/-- The eight names of the public operations surface (R63). -/
inductive OpName where
  | setDelay | enable | setDirection | step | stepOnce | setStepMode | setSpeed | version
deriving DecidableEq, Repr

def OpName.all : List OpName :=
  [.setDelay, .enable, .setDirection, .step, .stepOnce, .setStepMode, .setSpeed, .version]

/-- The name in the method-call form (R63, R67). -/
def OpName.callName : OpName → List Char
  | .setDelay => ['s', 'e', 't', 'D', 'e', 'l', 'a', 'y']
  | .enable => ['e', 'n', 'a', 'b', 'l', 'e']
  | .setDirection => ['s', 'e', 't', 'D', 'i', 'r', 'e', 'c', 't', 'i', 'o', 'n']
  | .step => ['s', 't', 'e', 'p']
  | .stepOnce => ['s', 't', 'e', 'p', 'O', 'n', 'c', 'e']
  | .setStepMode => ['s', 'e', 't', 'S', 't', 'e', 'p', 'M', 'o', 'd', 'e']
  | .setSpeed => ['s', 'e', 't', 'S', 'p', 'e', 'e', 'd']
  | .version => ['v', 'e', 'r', 's', 'i', 'o', 'n']

/-- The name in the mnemonic form (R63, R67). -/
def OpName.mnemonicName : OpName → List Char
  | .setDelay => ['S', 'E', 'T', 'D', 'E', 'L', 'A', 'Y']
  | .enable => ['E', 'N', 'A', 'B', 'L', 'E']
  | .setDirection => ['S', 'E', 'T', 'D', 'I', 'R']
  | .step => ['S', 'T', 'E', 'P']
  | .stepOnce => ['S', 'T', 'E', 'P', 'O', 'N', 'C', 'E']
  | .setStepMode => ['S', 'E', 'T', 'M', 'O', 'D', 'E']
  | .setSpeed => ['S', 'E', 'T', 'S', 'P', 'E', 'E', 'D']
  | .version => ['V', 'E', 'R', 'S', 'I', 'O', 'N']

/-- Whether the operation has an operand (R63). -/
def OpName.takesOperand : OpName → Bool
  | .setDelay => true
  | .enable => true
  | .setDirection => true
  | .step => true
  | .stepOnce => false
  | .setStepMode => true
  | .setSpeed => true
  | .version => false

/-- One operation as written: a name, and the number in it, of any size. -/
structure AsmTerm where
  name : OpName
  operand : Option Nat
deriving DecidableEq, Repr

/-- An operand stands exactly where the operation has one (R61, R67), and it fits 32 bits (R60, R62). -/
def AsmTerm.wellFormed (t : AsmTerm) : Bool :=
  match t.operand with
  | some n => t.name.takesOperand && n < 2 ^ 32
  | none => !t.name.takesOperand

/-- The operation of a name (R67). -/
def OpName.instr : OpName → Word → Instr
  | .setDelay, a => .setDelay a
  | .enable, a => .enable a
  | .setDirection, a => .setDir a
  | .step, a => .step a
  | .stepOnce, _ => .stepOnce
  | .setStepMode, a => .setMode a
  | .setSpeed, a => .setSpeed a
  | .version, _ => .version

/-- The operation a well-formed term stands for. -/
def AsmTerm.toInstr (t : AsmTerm) : Option Instr :=
  if t.wellFormed then some (t.name.instr (BitVec.ofNat 32 (t.operand.getD 0))) else none

/-- The word an assembler emits (R67). -/
def AsmTerm.assemble (t : AsmTerm) : Option CmdWord := t.toInstr.map encode

/-- The method-call form (R67). -/
def AsmTerm.callText (t : AsmTerm) : List Char :=
  t.name.callName ++ '(' :: ((t.operand.map (Nat.toDigits 10)).getD [] ++ [')'])

/-- The mnemonic form (R67). -/
def AsmTerm.mnemonicText (t : AsmTerm) : List Char :=
  t.name.mnemonicName ++ (t.operand.map (fun n => ' ' :: Nat.toDigits 10 n)).getD []

/-- The value of a digit. R67 does not say in which letter case hexadecimal digits stand: that both cases are read is the
model's DESIGN CHOICE (log entry 7). -/
def digitValue (c : Char) : Option Nat :=
  if '0' ≤ c ∧ c ≤ '9' then some (c.toNat - '0'.toNat)
  else if 'a' ≤ c ∧ c ≤ 'f' then some (c.toNat - 'a'.toNat + 10)
  else if 'A' ≤ c ∧ c ≤ 'F' then some (c.toNat - 'A'.toNat + 10)
  else none

/-- Digits in a base, after the digits already read. -/
def readDigits (base acc : Nat) : List Char → Option Nat
  | [] => some acc
  | c :: cs =>
    match digitValue c with
    | some d => if d < base then readDigits base (acc * base + d) cs else none
    | none => none

/-- An unsigned decimal, or a hexadecimal after `0x` (R67). That the prefix is read in lower case only, as R67 prints it, that
at least one digit follows it, and that leading zeros are read, is the model's DESIGN CHOICE (log entry 7). -/
def readNumber : List Char → Option Nat
  | '0' :: 'x' :: c :: cs => readDigits 16 0 (c :: cs)
  | c :: cs => readDigits 10 0 (c :: cs)
  | [] => none

/-- What stands before the first `stop`, and what stands after it. -/
def splitFirst (stop : Char) : List Char → Option (List Char × List Char)
  | [] => none
  | c :: cs => if c = stop then some ([], cs) else (splitFirst stop cs).map (fun p => (c :: p.1, p.2))

def OpName.ofCall (cs : List Char) : Option OpName := OpName.all.find? (fun n => n.callName == cs)

def OpName.ofMnemonic (cs : List Char) : Option OpName := OpName.all.find? (fun n => n.mnemonicName == cs)

/-- The operand between the parentheses: nothing, or one number. -/
def readOperand : List Char → Option (Option Nat)
  | [] => some none
  | c :: cs => (readNumber (c :: cs)).map some

/-- The method-call form (R67). -/
def readCall (line : List Char) : Option AsmTerm :=
  match splitFirst '(' line with
  | some (name, rest) =>
    match splitFirst ')' rest with
    | some (num, []) => (OpName.ofCall name).bind (fun n => (readOperand num).map (AsmTerm.mk n))
    | some (_, _ :: _) => none
    | none => none
  | none => none

/-- The mnemonic form (R67). -/
def readMnemonic (line : List Char) : Option AsmTerm :=
  match splitFirst ' ' line with
  | some (name, num) => (OpName.ofMnemonic name).bind (fun n => (readNumber num).map (fun v => ⟨n, some v⟩))
  | none => (OpName.ofMnemonic line).map (fun n => ⟨n, none⟩)

/-- One line of text as the inputs it puts on the ports: an operation in either form, or a reset (R67). -/
def readLine (line : List Char) : Option PortInput :=
  match splitFirst '=' line with
  | some (['R', 'E', 'S', 'E', 'T', ' ', 'c', 'f', 'g', '_', 's', 'p', 'r'], num) =>
    (readNumber num).bind (fun n => if n < 2 ^ 32 then some (.reset (BitVec.ofNat 32 n)) else none)
  | _ => (((readCall line).or (readMnemonic line)).bind AsmTerm.assemble).map .command

/-- The blanks at the front left out. -/
def dropBlanks (line : List Char) : List Char := line.dropWhile (· == ' ')

/-- A line as the programs of spec/95_test_vectors.md write it: its comment and the blanks at its ends left out (R67).
The spec does not say what a line is that holds a comment or blanks alone: that it is answered `none`, as a line that cannot be
read, is the model's DESIGN CHOICE (log entry 7). -/
def readProgramLine (line : List Char) : Option PortInput :=
  readLine (dropBlanks (dropBlanks (line.takeWhile (· != ';'))).reverse).reverse

end Sys2Proof.Machine
end

