-- ==== Sys2Proof/Machine/Flags.lean ====
section
/-! DEFINITION. Machine/Flags.lean: the output ports (R27). The block has no condition codes and no arithmetic flags (R17):
its 1-bit outputs are functions of the state (R8, R29). -/

namespace Sys2Proof.Machine

/-- R29. -/
def State.busy (s : State) : Bool := s.seqState != .idle

/-- R29. -/
def State.cmdReady (s : State) : Bool := s.seqState == .idle

/-- R27: `lines[4]` is constant 0 in a block without an enable line. -/
def State.linesPort (hasEn : Bool) (s : State) : BitVec 5 := if hasEn then s.lines else writeBit s.lines 4 false

/-- The output ports (R27). -/
structure Outputs where
  cmdReady : Bool
  busy : Bool
  rspValid : Bool
  rspStatus : BitVec 2
  rspData : Word
  lines : BitVec 5
deriving DecidableEq, Repr

/-- What the block shows during a cycle (R8, R121). A host sees nothing else of it (R34). -/
def State.outputs (s : State) : Outputs :=
  ⟨s.cmdReady, s.busy, s.rspValid, s.rspStatus.code, s.rspData, s.linesPort Config.hasEn⟩

end Sys2Proof.Machine
end

