-- ==== Sys2Proof/Machine/Trace.lean ====
section
/-! DEFINITION. Machine/Trace.lean: what a run shows on the STEP wire: its edges, which are what the driver chip counts,
and not the writes (R122). -/

namespace Sys2Proof.Machine

/-- The state after `k` rising edges: `Host.Core.run` of the machine, over the model's own types. -/
def runEdges : Nat → State → Host.Outcome State Fault Refusal
  | 0, s => .next s
  | k + 1, s =>
    match step s with
    | .next t => runEdges k t
    | .fault r => .fault r
    | .refused r => .refused r

/-- STEP goes from LOW to HIGH between two states (R122). -/
def stepRises (s t : State) : Bool := !s.line .step && t.line .step

/-- STEP goes from HIGH to LOW between two states (R122). -/
def stepFalls (s t : State) : Bool := s.line .step && !t.line .step

/-- How often `edge` is seen in `k` steps from `s`. -/
def countEdges (edge : State → State → Bool) : Nat → State → Nat
  | 0, _ => 0
  | k + 1, s =>
    match step s with
    | .next t => (edge s t).toNat + countEdges edge k t
    | .fault _ => 0
    | .refused _ => 0

/-- The inputs of the coming edges never assert reset. -/
def noReset (inputs : List PortInput) : Bool := inputs.all (fun p => !p.rst)

/-- The number of pulses of a blocking operation (R111, R112), 0 for every other. -/
def pulsesOf : Instr → Word
  | .step count => count
  | .stepOnce => 1#32
  | .setDelay _ => 0#32
  | .enable _ => 0#32
  | .setDir _ => 0#32
  | .setMode _ => 0#32
  | .setSpeed _ => 0#32
  | .version => 0#32
  | .reserved0 => 0#32
  | .reserved9 => 0#32
  | .reservedA => 0#32
  | .reservedB => 0#32
  | .reservedC => 0#32
  | .reservedD => 0#32
  | .reservedE => 0#32
  | .reservedF => 0#32

end Sys2Proof.Machine
end

