-- ==== Sys2Proof/Safety.lean ====
section
/-! DEFINITION. Safety.lean: the invariant of the block, and what a host has to heed (spec/70_reset_and_hazards.md section 3).
The block detects none of the hazards and reports none (R170): they are said here over a state and the operation it is about
to accept, and no meaning looks at them. -/

namespace Sys2Proof.Machine

/-- The relations between the registers that every edge keeps (R13, R24, R25, R26, R27, R30, R70, R114, R115, R119). -/
structure State.Inv (s : State) : Prop where
  /-- R25: idle exactly when no pulse is left. -/
  idle_iff : s.seqState = .idle ↔ s.stepsLeft = 0#32
  /-- R119: the timer of a phase runs from `eff - 1` down. -/
  hold_lt : s.holdLeft.toNat < (eff s.stepDelayMicros).toNat
  /-- R115, R36: the timer rests at 0. -/
  hold_idle : s.seqState = .idle → s.holdLeft = 0#32
  /-- R114, R115: STEP is HIGH in the HIGH phase. -/
  high_level : s.seqState = .phHigh → s.line .step = true
  /-- R115: STEP is LOW in the LOW phase. -/
  low_level : s.seqState = .phLow → s.line .step = false
  /-- R13: the steps per revolution are never 0. -/
  spr_nonzero : s.stepsPerRevolution ≠ 0#32
  /-- R93, R94, R163: without an enable line, `LINES[4]` stays at its reset level. -/
  no_enable : Config.hasEn = false → s.line .en = false
  /-- R30: an operation that completes leaves the block idle. -/
  response_idle : s.rspValid = true → s.seqState = .idle
  /-- R26: the data is `VERSION_ID` or 0, and 0 beside an error (R144). -/
  response_data : s.rspData = 0#32 ∨ s.rspStatus = .ok ∧ s.rspData = Config.versionId

/-- What the hazard rules warn of. -/
inductive Hazard where
  /-- Stepping with a zero delay: each phase lasts one cycle (R176). -/
  | zeroDelay
  /-- A step operation begun with STEP HIGH makes one rising edge fewer (R173). -/
  | lostRisingEdge
  /-- SETMODE itself makes a rising edge on STEP (R175). -/
  | modeRisingEdge
  /-- SETMODE changes the level of DIR (R174). -/
  | dirOverwritten
  /-- Modes 64 and 256 drive one pattern, and the row of 128 is in doubt too (R177). -/
  | doubtfulPattern
  /-- The delay SETSPEED stores does not give the speed asked for, whichever it is (R178): a half period is taken for a whole
  one, and the mode is left out (R107). `delayForSpeed` is the delay the host needs. -/
  | otherSpeed
deriving DecidableEq, Repr

/-- The delay a host needs for `rpm` revolutions a minute in mode `m` with `spr` full steps a revolution (R178): each step
takes two phases, and a revolution `spr * m` microsteps. SETSPEED goes by another formula (R107).
That the quotient is truncated is the model's DESIGN CHOICE (log entry 17); it is asked only where no divisor is 0. -/
def delayForSpeed (spr : Word) (m : StepMode) (rpm : Word) : Nat :=
  60000000 / (2 * spr.toNat * m.value.toNat * rpm.toNat)

/-- The hazards of a step operation of `n` pulses. -/
def stepHazards (s : State) (n : Word) : List Hazard :=
  if n = 0#32 then []
  else (if s.stepDelayMicros = 0#32 then [Hazard.zeroDelay] else [])
    ++ (if s.line .step then [Hazard.lostRisingEdge] else [])

/-- Driving the pattern of the mode makes a rising edge on STEP (R175). -/
def modeRaisesStep (s : State) (m : StepMode) : Bool := !s.line .step && (Config.modeTable m).getLsbD 2

/-- The hazards of SETMODE. -/
def modeHazards (s : State) (mode : Word) : List Hazard :=
  match modeOf mode with
  | none => []
  | some m => (if modeRaisesStep s m then [Hazard.modeRisingEdge] else [])
      ++ (if s.line .dir != (Config.modeTable m).getLsbD 3 then [Hazard.dirOverwritten] else [])
      ++ (if m = .m64 ∨ m = .m128 ∨ m = .m256 then [Hazard.doubtfulPattern] else [])

/-- The hazards of an operation about to be accepted. -/
def hazards (s : State) : Instr → List Hazard
  | .step count => stepHazards s count
  | .stepOnce => stepHazards s 1#32
  | .setMode mode => modeHazards s mode
  | .setSpeed rpm =>
    if rpm = 0#32 ∨ s.stepsPerRevolution = 0#32 then [] else [.otherSpeed]
  | .setDelay _ => []
  | .enable _ => []
  | .setDir _ => []
  | .version => []
  | .reserved0 => []
  | .reserved9 => []
  | .reservedA => []
  | .reservedB => []
  | .reservedC => []
  | .reservedD => []
  | .reservedE => []
  | .reservedF => []

/-- A command the host presents and does not get accepted at this edge, nor presents again at the next (R171). -/
def commandLost (s : State) : Bool :=
  s.sampled.cmdValid && (s.busy || s.sampled.rst)
    && (s.dropInput.sampled.cmdValid == false || s.dropInput.sampled.word != s.sampled.word)

/-- What a host, or a model that wants sticky errors, keeps beside the state (R156, R169): the hardware has none of it. -/
structure HostRecord where
  /-- The driver chip was reset or woken, by means outside the block, while the block was idle, and has not stepped since
  (R169 (2), R172). -/
  chipReady : Bool
  /-- A mode was set while the chip would honour it (R169 (3), R172). -/
  modeChosen : Bool
  /-- A direction was set after the last mode (R169 (4), R174). -/
  dirChosenSince : Bool
  /-- An error status was returned (R156). -/
  errorReturned : Bool
deriving DecidableEq, Repr

/-- The record of a host that has done nothing yet but reset the block (R169 (1)): a reset of the block begins it anew. That the
errors recorded before are gone from it too is the model's DESIGN CHOICE (log entry 17). -/
def HostRecord.fresh : HostRecord := ⟨false, false, false, false⟩

/-- The host has put the driver chip through its own reset (R169 (2)) while the block was in this state: the chip's mode is to be
set again. The spec does not say what a chip reset made while a sequence runs is worth, whose remaining pulses reach the chip
after it (R172): that it does not make the chip ready, and only one made while the block is idle does, is the model's
DESIGN CHOICE (log entry 17). -/
def HostRecord.chipReset (r : HostRecord) (s : State) : HostRecord :=
  { r with chipReady := !s.busy, modeChosen := false, dirChosenSince := false }

/-- The record after an operation was accepted in a state.
A SETMODE the chip may ignore leaves the mode the motor runs in unknown (R172).
The spec does not say whether a SETMODE that itself raises STEP (R175) makes the chip step, nor what a step operation does that
raises no edge (R173): that each of them is recorded as a step, after which a later SETMODE does not count as honoured, is the
model's DESIGN CHOICE (log entry 17). -/
def HostRecord.after (r : HostRecord) (s : State) : Instr → HostRecord
  | .setMode mode => (modeOf mode).elim r (fun m =>
      { r with
        chipReady := r.chipReady && !modeRaisesStep s m, modeChosen := r.chipReady, dirChosenSince := false })
  | .setDir _ => { r with dirChosenSince := r.modeChosen }
  | .setSpeed rpm => { r with errorReturned := r.errorReturned || rpm == 0#32 || s.stepsPerRevolution == 0#32 }
  | .step count => if count = 0#32 then r else { r with chipReady := false }
  | .stepOnce => { r with chipReady := false }
  | .reserved0 => { r with errorReturned := true }
  | .reserved9 => { r with errorReturned := true }
  | .reservedA => { r with errorReturned := true }
  | .reservedB => { r with errorReturned := true }
  | .reservedC => { r with errorReturned := true }
  | .reservedD => { r with errorReturned := true }
  | .reservedE => { r with errorReturned := true }
  | .reservedF => { r with errorReturned := true }
  | .setDelay _ => r
  | .enable _ => r
  | .version => r

/-- R169: the driver chip reset, a mode, then a direction, and a delay above 0, before a host may count on a step
operation. -/
def HostRecord.mayStep (r : HostRecord) (s : State) : Bool :=
  r.modeChosen && r.dirChosenSince && s.stepDelayMicros != 0#32

end Sys2Proof.Machine
end

