-- ==== Sys2Proof/WellFormed.lean ====
section
/-! DEFINITION. WellFormed.lean: which terms an assembler may emit.
A term is well formed when it is one of the eight operations of the public operations surface (R63, R67).
The operand needs no check of its own: its type holds exactly the 2^32 operands the format admits (R60, R62), and every
one of them is accepted by every operation (R65).
A reserved opcode is no operation (R64): no assembler emits it (R67), so the check refuses it.
The command port accepts it all the same, and it has its meaning in the machine (R131). -/

namespace Sys2Proof

/-- The eight operations (R63), and not a reserved opcode (R64). -/
def Instr.wellFormed : Instr → Bool
  | .setDelay _ => true
  | .enable _ => true
  | .setDir _ => true
  | .step _ => true
  | .stepOnce => true
  | .setMode _ => true
  | .setSpeed _ => true
  | .version => true
  | .reserved0 => false
  | .reserved9 => false
  | .reservedA => false
  | .reservedB => false
  | .reservedC => false
  | .reservedD => false
  | .reservedE => false
  | .reservedF => false

end Sys2Proof
end

