-- ==== Sys2Proof/Certificates/Slice0/Obligations.lean ====
section
/-! DEFINITION. Certificates/Slice0/Obligations.lean: the statements for the provers (OBLIGATIONS.json).
A result statement gives the whole next state: what it does not name stands as before, which is the operation's frame.
Words and table rows are written out here from the spec, and not taken from the model's own tables. -/

open Sys2Proof Sys2Proof.Machine

namespace Sys2Proof.Claims

/-- The nine rows of the mode table, as R81 prints them: the mode, then MODE4, MODE3, MODE2, MODE1. -/
def printedRows : List (Word × Bool × Bool × Bool × Bool) :=
  [(1#32, false, false, false, false), (2#32, false, true, false, true), (4#32, true, false, true, false),
   (8#32, true, true, false, true), (16#32, true, true, true, true), (32#32, false, false, true, false),
   (64#32, true, false, true, true), (128#32, true, false, false, true), (256#32, true, false, true, true)]

/-- The arguments R83 lists as invalid. -/
def printedInvalidModes : List Word :=
  [0#32, 3#32, 5#32, 6#32, 7#32, 9#32, 255#32, 257#32, 512#32, 0x80000000#32, 0xFFFFFFFF#32, 0x00010001#32]

/-- The eight reserved opcodes (R64) with the operation each stands for. -/
def reservedOpcodes : List (BitVec 4 × Instr) :=
  [(0x0#4, .reserved0), (0x9#4, .reserved9), (0xA#4, .reservedA), (0xB#4, .reservedB), (0xC#4, .reservedC),
   (0xD#4, .reservedD), (0xE#4, .reservedE), (0xF#4, .reservedF)]

/-- The method name of each operation, as R67's table prints it. -/
def printedCall : OpName → List Char
  | .setDelay => ['s', 'e', 't', 'D', 'e', 'l', 'a', 'y']
  | .enable => ['e', 'n', 'a', 'b', 'l', 'e']
  | .setDirection => ['s', 'e', 't', 'D', 'i', 'r', 'e', 'c', 't', 'i', 'o', 'n']
  | .step => ['s', 't', 'e', 'p']
  | .stepOnce => ['s', 't', 'e', 'p', 'O', 'n', 'c', 'e']
  | .setStepMode => ['s', 'e', 't', 'S', 't', 'e', 'p', 'M', 'o', 'd', 'e']
  | .setSpeed => ['s', 'e', 't', 'S', 'p', 'e', 'e', 'd']
  | .version => ['v', 'e', 'r', 's', 'i', 'o', 'n']

/-- The mnemonic of each operation, as R67's table prints it. -/
def printedMnemonic : OpName → List Char
  | .setDelay => ['S', 'E', 'T', 'D', 'E', 'L', 'A', 'Y']
  | .enable => ['E', 'N', 'A', 'B', 'L', 'E']
  | .setDirection => ['S', 'E', 'T', 'D', 'I', 'R']
  | .step => ['S', 'T', 'E', 'P']
  | .stepOnce => ['S', 'T', 'E', 'P', 'O', 'N', 'C', 'E']
  | .setStepMode => ['S', 'E', 'T', 'M', 'O', 'D', 'E']
  | .setSpeed => ['S', 'E', 'T', 'S', 'P', 'E', 'E', 'D']
  | .version => ['V', 'E', 'R', 'S', 'I', 'O', 'N']

/-- The opcode in the command word of each operation, as R67's table prints it. -/
def printedOpcode : OpName → BitVec 4
  | .setDelay => 0x1#4
  | .enable => 0x2#4
  | .setDirection => 0x3#4
  | .step => 0x4#4
  | .stepOnce => 0x5#4
  | .setStepMode => 0x6#4
  | .setSpeed => 0x7#4
  | .version => 0x8#4

/-- Lines, DriverState and sequencer registers are those of the other state: only the response registers and the inputs
may differ. -/
def SameButResponse (s t : State) : Prop :=
  t = { s with rspValid := t.rspValid, rspStatus := t.rspStatus, rspData := t.rspData, inputs := t.inputs }

/-- An idle block, about to accept a step operation of `n` pulses, `n` not 0, which no reset cuts short: a phase lasting
`D` cycles, the `2 * n * D` edges after the accepting one do not assert reset. -/
structure StepAccepted (s : State) (n : Word) : Prop where
  idle : s.seqState = .idle
  presented : s.sampled.rst = false ∧ s.sampled.cmdValid = true
  pulses : pulsesOf (decode s.sampled.word) = n
  some_pulse : n ≠ 0#32
  no_reset : noReset (s.inputs.tail.take (2 * n.toNat * (eff s.stepDelayMicros).toNat)) = true

/-- The level a printed row gives a line; the enable line is in no row. -/
def rowLevel (s : State) (r : Bool × Bool × Bool × Bool) (l : Line) : Bool :=
  match l with
  | .mode1 => r.2.2.2
  | .mode2 => r.2.2.1
  | .step => r.2.1
  | .dir => r.1
  | .en => s.line .en

/-- R20, the rows of the operations: the level a line has after an operation was accepted. -/
def levelAfter (s : State) (l : Line) (i : Instr) : Bool :=
  match i with
  | .setMode m => (printedRows.lookup m).elim (s.line l) (fun r => rowLevel s r l)
  | .stepOnce => if l = .step then true else s.line l
  | .step n => if l = .step ∧ n ≠ 0#32 then true else s.line l
  | .setDir a => if l = .dir then decide (a = 0#32) else s.line l
  | .enable a => if l = .en ∧ Config.hasEn = true then decide (a ≠ 0#32) else s.line l
  | .setDelay _ => s.line l
  | .setSpeed _ => s.line l
  | .version => s.line l
  | .reserved0 => s.line l
  | .reserved9 => s.line l
  | .reservedA => s.line l
  | .reservedB => s.line l
  | .reservedC => s.line l
  | .reservedD => s.line l
  | .reservedE => s.line l
  | .reservedF => s.line l

/-- R20, the row of the step operations, while their sequence runs: HIGH at the start of each HIGH phase, LOW at the start of
each LOW phase. -/
def levelAfterTick (s : State) (l : Line) : Bool :=
  if l = .step ∧ s.holdLeft = 0#32 then
    if s.seqState = .phHigh then false else if s.stepsLeft = 1#32 then s.line l else true
  else s.line l

/-- R20: the level a line has after the next edge. -/
def muxLevel (s : State) (l : Line) : Bool :=
  match s.edgeAction with
  | .reset _ => false
  | .quiet => s.line l
  | .tick => levelAfterTick s l
  | .accept w => levelAfter s l (decode w)

/-- R26, R70: the response registers after an operation was accepted. -/
def responseAfter (s : State) (i : Instr) : Bool × Status × Word :=
  match i with
  | .stepOnce => (false, s.rspStatus, s.rspData)
  | .step n => if n = 0#32 then (true, .ok, 0#32) else (false, s.rspStatus, s.rspData)
  | .version => (true, .ok, Config.versionId)
  | .setSpeed rpm => (true, if rpm = 0#32 ∨ s.stepsPerRevolution = 0#32 then .errDiv0 else .ok, 0#32)
  | .setDelay _ => (true, .ok, 0#32)
  | .enable _ => (true, .ok, 0#32)
  | .setDir _ => (true, .ok, 0#32)
  | .setMode _ => (true, .ok, 0#32)
  | .reserved0 => (true, .errBadOp, 0#32)
  | .reserved9 => (true, .errBadOp, 0#32)
  | .reservedA => (true, .errBadOp, 0#32)
  | .reservedB => (true, .errBadOp, 0#32)
  | .reservedC => (true, .errBadOp, 0#32)
  | .reservedD => (true, .errBadOp, 0#32)
  | .reservedE => (true, .errBadOp, 0#32)
  | .reservedF => (true, .errBadOp, 0#32)

/-- R26: the response registers after the next edge: `rsp_valid` is 1 exactly where an operation completes. -/
def responseRegisters (s : State) : Bool × Status × Word :=
  match s.edgeAction with
  | .reset _ => (false, .ok, 0#32)
  | .quiet => (false, s.rspStatus, s.rspData)
  | .tick =>
    if s.holdLeft = 0#32 ∧ s.seqState = .phLow ∧ s.stepsLeft = 1#32 then (true, .ok, 0#32)
    else (false, s.rspStatus, s.rspData)
  | .accept w => responseAfter s (decode w)

end Sys2Proof.Claims

open Sys2Proof.Claims

/-! ## Encoding (spec/30_encoding.md) -/

/-- R72: the eleven example words stand for the operations they are printed beside. -/
def Obligations.ExampleWordsDecodeAsPrinted : Prop :=
  decode 0x600000010#36 = .setMode 16#32 ∧ decode 0x600000100#36 = .setMode 256#32 ∧
  decode 0x300000000#36 = .setDir 0#32 ∧ decode 0x300000001#36 = .setDir 1#32 ∧
  decode 0x1000007D0#36 = .setDelay 2000#32 ∧ decode 0x70000003C#36 = .setSpeed 60#32 ∧
  decode 0x500000000#36 = .stepOnce ∧ decode 0x4000000C8#36 = .step 200#32 ∧
  decode 0x200000001#36 = .enable 1#32 ∧ decode 0x800000000#36 = .version ∧ decode 0x000000000#36 = .reserved0

/-- R71: `decode(encode(x)) = x`; and `encode(decode(w)) = w` where the opcode is 1, 2, 3, 4, 6 or 7, or where the operand
field is 0. For the reserved opcodes both sides rest on the operand 0 the model encodes them with (log entry 8). -/
def Obligations.DecodeAndEncodeAgree : Prop :=
  (∀ i : Instr, decode (encode i) = i) ∧
  (∀ w : CmdWord, w.op ∈ [0x1#4, 0x2#4, 0x3#4, 0x4#4, 0x6#4, 0x7#4] ∨ w.arg = 0#32 → encode (decode w) = w)

/-- R71 and spec/opcode_table.json: each of the 2^36 words is of exactly one row, and decodes to that row's operation. -/
def Obligations.EveryWordIsOfExactlyOneTableRow : Prop :=
  ∀ w : CmdWord, ∃ r, opcodeTable.filter (·.covers w) = [r] ∧ r.mnemonic = (decode w).mnemonic

/-- R62 (d), R64: STEPONCE, VERSION and the reserved opcodes ignore the operand field; the other six decode to it whole. -/
def Obligations.OperandFieldIsTakenWholeOrIgnored : Prop :=
  ∀ a : Word,
    decode (CmdWord.ofFields 0x1#4 a) = .setDelay a ∧ decode (CmdWord.ofFields 0x2#4 a) = .enable a ∧
    decode (CmdWord.ofFields 0x3#4 a) = .setDir a ∧ decode (CmdWord.ofFields 0x4#4 a) = .step a ∧
    decode (CmdWord.ofFields 0x5#4 a) = .stepOnce ∧ decode (CmdWord.ofFields 0x6#4 a) = .setMode a ∧
    decode (CmdWord.ofFields 0x7#4 a) = .setSpeed a ∧ decode (CmdWord.ofFields 0x8#4 a) = .version ∧
    ∀ r ∈ reservedOpcodes, decode (CmdWord.ofFields r.1 a) = r.2

/-- R67: both texts of every well-formed term, the names as the table prints them and the operand in decimal, are read back as
the command word the table gives that row: its opcode above the operand, 0 where there is none.
Where blanks may stand is the model's choice: none in the method-call form, one after a mnemonic (log entry 7). -/
def Obligations.CallTextReadsBackAsItsWord : Prop :=
  ∀ t : AsmTerm, t.wellFormed = true →
    ∃ w, t.assemble = some w ∧
      w = CmdWord.ofFields (printedOpcode t.name) (BitVec.ofNat 32 (t.operand.getD 0)) ∧
      w.arg.toNat = t.operand.getD 0 ∧
      t.callText = printedCall t.name ++ '(' :: ((t.operand.map (Nat.toDigits 10)).getD [] ++ [')']) ∧
      readLine t.callText = some (.command w) ∧
      t.mnemonicText = printedMnemonic t.name ++ (t.operand.map (fun n => ' ' :: Nat.toDigits 10 n)).getD [] ∧
      readLine t.mnemonicText = some (.command w)

/-! ## The step (R28, R121) -/

/-- R28: the handshake. A word is accepted exactly where `rst` is 0, `cmd_valid` is 1 and `cmd_ready` is 1, and the edge
then runs the operation it decodes to; presented anywhere else it has no effect at all; and an idle block to which nothing
is presented keeps its state but for `rsp_valid`. What the step adds around `exec` is that the waveform moves on and
`rsp_valid` is 0 unless the operation completes. That the inputs of the coming edges stand in the state is the model's
form (log entry 3). -/
def Obligations.StepRunsTheAcceptedCommand : Prop :=
  ∀ s : State,
    (s.sampled.rst = false → s.sampled.cmdValid = true → s.cmdReady = true →
      step s = exec (decode s.sampled.word) { s with inputs := s.inputs.tail, rspValid := false }) ∧
    (s.sampled.rst = true ∨ s.cmdReady = false → ∀ (v : Bool) (op : BitVec 4) (arg : Word),
      step s = step { s with
        inputs := { s.sampled with cmdValid := v, cmdOp := op, cmdArg := arg } :: s.inputs.tail }) ∧
    (s.sampled.rst = false → s.sampled.cmdValid = false → s.cmdReady = true →
      step s = .next { s with inputs := s.inputs.tail, rspValid := false })

/-- The word the host places is the one the next step runs, in an idle block. Where it is placed is the model's choice (log
entries 3 and 5). -/
def Obligations.PlacedWordIsTheNextOneRun : Prop :=
  ∀ (s : State) (nbits w : Nat) (i : Instr), s.seqState = .idle → decodeTableWord nbits w = some i →
    step (s.withFetchWord nbits w) = exec i { s with inputs := s.inputs.tail, rspValid := false }

/-- No operation stops the machine, and no edge does: there is no hang and no stuck state (R65, R120). -/
def Obligations.EveryOperationAndEveryEdgeAnswersANextState : Prop :=
  (∀ (i : Instr) (s : State), ∃ t, exec i s = .next t) ∧ ∀ s : State, ∃ t, step s = .next t

/-! ## Reset (spec/70_reset_and_hazards.md section 1) -/

/-- R160, R164, with the values of R162, R163 and R165: a rising edge with `rst = 1` sets the whole state, whatever the
state was and whatever stands on the command port. -/
def Obligations.ResetEdgeSetsTheWholeState : Prop :=
  ∀ s : State, s.sampled.rst = true →
    ∃ t, step s = .next t ∧ t.direction = false ∧ t.stepDelayMicros = 2000#32 ∧
      t.stepsPerRevolution = (if s.sampled.cfgSpr = 0#32 then 200#32 else s.sampled.cfgSpr) ∧
      t.currentStepMode = .m1 ∧ t.lines = 0b00000#5 ∧ t.seqState = .idle ∧ t.holdLeft = 0#32 ∧ t.stepsLeft = 0#32 ∧
      t.rspValid = false ∧ t.rspStatus.code = 0#2 ∧ t.rspData = 0#32 ∧ t.busy = false ∧ t.cmdReady = true ∧
      t.inputs = s.inputs.tail

/-- R165: `stepsPerRevolution` is loaded from `cfg_spr`, or with 200 for 0, at every edge with `rst = 1`; at every other
edge it stays and `cfg_spr` is ignored. -/
def Obligations.StepsPerRevolutionIsLoadedOnlyByReset : Prop :=
  ∀ s t : State, step s = .next t →
    (s.sampled.rst = true → t.stepsPerRevolution = if s.sampled.cfgSpr = 0#32 then 200#32 else s.sampled.cfgSpr) ∧
    (s.sampled.rst = false → t.stepsPerRevolution = s.stepsPerRevolution ∧
      ∀ c : Word, step { s with inputs := { s.sampled with cfgSpr := c } :: s.inputs.tail } = .next t)

/-! ## Whole-machine rules -/

/-- The reset state, for every `cfg_spr`, meets the invariant; `State.reset` is the one for 0, the model's choice (log
entry 4). -/
def Obligations.ResetStatesMeetTheInvariant : Prop :=
  State.reset.Inv ∧ ∀ c : Word, (State.resetWith c).Inv

/-- Every edge keeps the invariant, from every state that meets it. -/
def Obligations.EveryEdgeKeepsTheInvariant : Prop :=
  ∀ s t : State, s.Inv → step s = .next t → t.Inv

/-- R20: the mux. After every edge each line has the level its writer gave it, and without a writer the level it had. -/
def Obligations.EachLineIsWrittenOnlyByItsWriters : Prop :=
  ∀ s : State, ∃ t, step s = .next t ∧ ∀ l : Line, t.line l = muxLevel s l

/-- R26: the response registers after every edge: a response exactly where an operation completes, the status and the data
kept at every other edge without reset. -/
def Obligations.ResponseRegistersFollowCompletions : Prop :=
  ∀ s : State, ∃ t, step s = .next t ∧ (t.rspValid, t.rspStatus, t.rspData) = responseRegisters s

/-- R35: the writers of DriverState. Without reset, `direction` is written by SETDIR alone, `stepDelayMicros` by SETDELAY and
by a SETSPEED that succeeds, `currentStepMode` by a SETMODE with a valid mode, `stepsPerRevolution` by nothing. -/
def Obligations.EachDriverRegisterIsWrittenOnlyByItsWriters : Prop :=
  ∀ s t : State, step s = .next t → s.sampled.rst = false →
    t.stepsPerRevolution = s.stepsPerRevolution ∧
    (t.direction ≠ s.direction → ∃ a, s.edgeAction = .accept s.sampled.word ∧
      decode s.sampled.word = .setDir a ∧ t.direction = decide (a ≠ 0#32)) ∧
    (t.stepDelayMicros ≠ s.stepDelayMicros → ∃ a, s.edgeAction = .accept s.sampled.word ∧
      (decode s.sampled.word = .setDelay a ∧ t.stepDelayMicros = a ∨
       decode s.sampled.word = .setSpeed a ∧ a ≠ 0#32 ∧ s.stepsPerRevolution ≠ 0#32 ∧
         t.stepDelayMicros.toNat = 60000000 / s.stepsPerRevolution.toNat / a.toNat)) ∧
    (t.currentStepMode ≠ s.currentStepMode → ∃ a, s.edgeAction = .accept s.sampled.word ∧
      decode s.sampled.word = .setMode a ∧ t.currentStepMode.value = a)

/-- R140: the complete list of errors. An edge shows `ERR_DIV0` exactly where a SETSPEED with a zero divisor is accepted, and
`ERR_BADOP` exactly where a reserved opcode is; every other completion is `OK`. -/
def Obligations.OnlyZeroDivisorsAndReservedOpcodesAreErrors : Prop :=
  ∀ s t : State, step s = .next t → t.rspValid = true →
    (t.rspStatus = .errDiv0 ↔ ∃ w rpm, s.edgeAction = .accept w ∧ decode w = .setSpeed rpm ∧
      (rpm = 0#32 ∨ s.stepsPerRevolution = 0#32)) ∧
    (t.rspStatus = .errBadOp ↔ ∃ w, s.edgeAction = .accept w ∧ (decode w).wellFormed = false)

/-- R144: an error is precise. An edge that shows one has changed no DriverState register, no line and no sequencer register;
the data is 0, the block is idle and accepts at the next edge. -/
def Obligations.AnErrorChangesOnlyTheResponse : Prop :=
  ∀ s t : State, step s = .next t → t.rspValid = true → t.rspStatus ≠ .ok →
    SameButResponse s t ∧ t.rspData = 0#32 ∧ t.inputs = s.inputs.tail ∧ t.cmdReady = true

/-- R124: while a sequence runs, an edge without reset writes no line but STEP, and no DriverState register. -/
def Obligations.ASequenceWritesOnlyTheStepLine : Prop :=
  ∀ s t : State, s.busy = true → s.sampled.rst = false → step s = .next t →
    (∀ l, l ≠ .step → t.line l = s.line l) ∧
    t = { s with
      lines := t.lines, seqState := t.seqState, holdLeft := t.holdLeft, stepsLeft := t.stepsLeft,
      rspValid := t.rspValid, rspStatus := t.rspStatus, rspData := t.rspData, inputs := s.inputs.tail }

/-- R17, R43, R93: nothing depends on a line level. Two states that differ in the lines alone go through an edge alike, but
for the lines; and each line has the same level after both edges, or after each the level it had before. So no level, that of
EN neither, decides what is written or whether. -/
def Obligations.NoEdgeReadsALineLevel : Prop :=
  ∀ (s : State) (ls : BitVec 5), ∃ t u, step s = .next t ∧ step { s with lines := ls } = .next u ∧
    u = { t with lines := u.lines } ∧
    ∀ l : Line, t.line l = u.line l ∨ t.line l = s.line l ∧ u.line l = ls.getLsbD l.index

/-- R11, R14, R34: no run shows `direction` or `currentStepMode`. From two states that differ in these alone, every run shows
the same on the output ports. -/
def Obligations.NoRunShowsDirectionOrMode : Prop :=
  ∀ (k : Nat) (s : State) (d : Bool) (m : StepMode),
    ∃ t u, runEdges k s = .next t ∧ runEdges k { s with direction := d, currentStepMode := m } = .next u ∧
      u.outputs = t.outputs

/-- R21, R27: where the invariant holds, the wires show the line registers, with or without an enable line. -/
def Obligations.WiresShowTheLineRegisters : Prop :=
  ∀ s : State, s.Inv → s.outputs.lines = s.lines

/-! ## SETMODE (spec/40_mode_encoder.md) -/

/-- R80: `valid_mode` holds of exactly the nine values, which are the powers of two from bit 0 to bit 8. -/
def Obligations.ValidModesAreExactlyTheNine : Prop :=
  ∀ a : Word,
    (validMode a = true ↔ a ∈ [1#32, 2#32, 4#32, 8#32, 16#32, 32#32, 64#32, 128#32, 256#32]) ∧
    (validMode a = true ↔ ∃ k ≤ 8, a = 1#32 <<< k) ∧
    validMode 0#32 = false ∧ ∀ k, 9 ≤ k → k ≤ 31 → validMode (1#32 <<< k) = false

/-- R82, with the rows of R81: a valid mode drives its printed pattern on the four lines and is recorded; the enable line and
everything else stays. -/
def Obligations.SetModeDrivesThePrintedPattern : Prop :=
  ∀ r ∈ printedRows, ∀ s : State,
    validMode r.1 = true ∧ decode (CmdWord.ofFields 0x6#4 r.1) = .setMode r.1 ∧
    ∃ t, exec (.setMode r.1) s = .next t ∧
      t.line .dir = r.2.1 ∧ t.line .step = r.2.2.1 ∧ t.line .mode2 = r.2.2.2.1 ∧ t.line .mode1 = r.2.2.2.2 ∧
      t.line .en = s.line .en ∧ t.currentStepMode.value = r.1 ∧
      t = { s with
        lines := t.lines, currentStepMode := t.currentStepMode, rspValid := true, rspStatus := .ok, rspData := 0#32 }

/-- R83: an invalid mode is answered `OK` with data 0, and nothing else changes; R83's list of arguments is invalid. -/
def Obligations.SetModeIgnoresAnInvalidMode : Prop :=
  (∀ (a : Word) (s : State), validMode a = false →
    exec (.setMode a) s = .next { s with rspValid := true, rspStatus := .ok, rspData := 0#32 }) ∧
  ∀ a ∈ printedInvalidModes, validMode a = false

/-- R84: the pattern after a valid SETMODE depends on the operand alone: from any two states it is the same, so a mode set
again after another one reproduces its pattern; setting it twice is setting it once; and 64 and 256 drive one pattern, which
`currentStepMode` tells apart. -/
def Obligations.SetModePatternHasNoHistory : Prop :=
  (∀ (a : Word) (s t u v : State), validMode a = true → exec (.setMode a) s = .next u → exec (.setMode a) t = .next v →
    (∀ l, l ≠ .en → u.line l = v.line l) ∧ exec (.setMode a) u = .next u) ∧
  (∀ s u v : State, exec (.setMode 64#32) s = .next u → exec (.setMode 256#32) s = .next v →
    u.lines = v.lines ∧ u.currentStepMode ≠ v.currentStepMode)

/-- R175, R85: SETMODE makes a rising edge on STEP exactly for the modes 2, 8 and 16 with STEP LOW before. -/
def Obligations.SetModeRaisesStepForModes2And8And16 : Prop :=
  ∀ (a : Word) (s t : State), exec (.setMode a) s = .next t →
    (stepRises s t = true ↔ s.line .step = false ∧ a ∈ [2#32, 8#32, 16#32]) ∧
    (Hazard.modeRisingEdge ∈ hazards s (.setMode a) ↔ stepRises s t = true)

/-! ## SETDIR and ENABLE (spec/41_direction_enable.md) -/

/-- R90: 0 drives DIR HIGH and any nonzero operand drives it LOW; `direction` records whether it was nonzero. -/
def Obligations.SetDirDrivesTheInvertedLevel : Prop :=
  ∀ (a : Word) (s : State), decode (CmdWord.ofFields 0x3#4 a) = .setDir a ∧
    ∃ t, exec (.setDir a) s = .next t ∧ (∀ l, t.line l = if l = .dir then decide (a = 0#32) else s.line l) ∧
      t = { s with
        lines := t.lines, direction := decide (a ≠ 0#32), rspValid := true, rspStatus := .ok, rspData := 0#32 }

/-- R93, R94: ENABLE drives EN with whether its operand is nonzero in a block that has the line, and changes no line in one
that has not; the response is `OK` either way. What it does is `enableLine` at the block's own `HAS_EN`, and the clause
before says what that does for both values of it. -/
def Obligations.EnableDrivesTheEnableLineWhereThereIsOne : Prop :=
  ∀ (a : Word) (s : State), decode (CmdWord.ofFields 0x2#4 a) = .enable a ∧
    (∀ (h : Bool) (l : Line), (s.enableLine h a).line l = if h = true ∧ l = .en then decide (a ≠ 0#32) else s.line l) ∧
    exec (.enable a) s = .next { s with
      lines := (s.enableLine Config.hasEn a).lines, rspValid := true, rspStatus := .ok, rspData := 0#32 } ∧
    (s.linesPort false).getLsbD 4 = false

/-! ## SETDELAY and SETSPEED (spec/42_delay_speed.md) -/

/-- R100, R101: the delay takes the operand, whichever it is, and nothing but the response changes beside it. -/
def Obligations.SetDelayStoresItsOperand : Prop :=
  ∀ (a : Word) (s : State), decode (CmdWord.ofFields 0x1#4 a) = .setDelay a ∧
    exec (.setDelay a) s = .next { s with
      stepDelayMicros := a, rspValid := true, rspStatus := .ok, rspData := 0#32 }

/-- R102: with no divisor zero the delay becomes `60000000 / stepsPerRevolution / revsPerMinute`, each division truncating;
so 200 and 60 give 5000. -/
def Obligations.SetSpeedStoresTheTwoStepQuotient : Prop :=
  (∀ (a : Word) (s : State), a ≠ 0#32 → s.stepsPerRevolution ≠ 0#32 →
    decode (CmdWord.ofFields 0x7#4 a) = .setSpeed a ∧
    ∃ t, exec (.setSpeed a) s = .next t ∧
      t.stepDelayMicros.toNat = 60000000 / s.stepsPerRevolution.toNat / a.toNat ∧
      t = { s with stepDelayMicros := t.stepDelayMicros, rspValid := true, rspStatus := .ok, rspData := 0#32 }) ∧
  (∀ s t : State, s.stepsPerRevolution = 200#32 → exec (.setSpeed 60#32) s = .next t → t.stepDelayMicros = 5000#32)

/-- R103: with a zero divisor SETSPEED reports `ERR_DIV0`, code 1, and changes nothing but the response. -/
def Obligations.SetSpeedWithAZeroDivisorIsAnError : Prop :=
  ∀ (a : Word) (s : State), a = 0#32 ∨ s.stepsPerRevolution = 0#32 →
    exec (.setSpeed a) s = .next { s with rspValid := true, rspStatus := .errDiv0, rspData := 0#32 } ∧
    Status.errDiv0.code = 1#2

/-- R104, R106: the delay SETSPEED stores never exceeds 60,000,000, is the quotient by the product, and is 0 exactly where
the product of the divisors exceeds 60,000,000. -/
def Obligations.SetSpeedResultIsBoundedAndCanBeZero : Prop :=
  ∀ (a : Word) (s t : State), a ≠ 0#32 → s.stepsPerRevolution ≠ 0#32 → exec (.setSpeed a) s = .next t →
    t.stepDelayMicros.toNat ≤ 60000000 ∧
    t.stepDelayMicros.toNat = 60000000 / (s.stepsPerRevolution.toNat * a.toNat) ∧
    (t.stepDelayMicros = 0#32 ↔ 60000000 < s.stepsPerRevolution.toNat * a.toNat)

/-! ## STEPONCE and STEP (spec/43_pulse_sequencer.md) -/

/-- R114: STEPONCE, and STEP with a count other than 0, start a sequence at the accepting edge: STEP is HIGH, the timer holds
`eff(stepDelayMicros) - 1`, the block is busy, and no response is shown. -/
def Obligations.StepOperationsStartASequence : Prop :=
  ∀ (i : Instr) (n : Word) (s : State), (i = .stepOnce ∧ n = 1#32) ∨ (i = .step n ∧ n ≠ 0#32) →
    ∃ t, exec i s = .next t ∧ (∀ l, t.line l = if l = .step then true else s.line l) ∧
      t.holdLeft.toNat = (if s.stepDelayMicros = 0#32 then 1 else s.stepDelayMicros.toNat) - 1 ∧
      t.busy = true ∧ t.cmdReady = false ∧
      t = { s with
        lines := t.lines, seqState := .phHigh, holdLeft := t.holdLeft, stepsLeft := n, rspValid := false }

/-- R117: STEP with count 0 writes no line, starts no sequence and responds `OK` at once, whatever the delay. -/
def Obligations.StepOfZeroIsANoOp : Prop :=
  ∀ s : State, exec (.step 0#32) s = .next { s with rspValid := true, rspStatus := .ok, rspData := 0#32 }

/-- R68: STEPONCE is STEP with count 1 in every state; and the line events of STEP with count `n` are those of `n` STEPONCE. -/
def Obligations.StepOnceIsStepOfOne : Prop :=
  (∀ s : State, exec .stepOnce s = exec (.step 1#32) s) ∧
  (∀ (h : Bool) (n : Word) (d : DriverState),
    events h (.step n) d = (List.replicate n.toNat (events h .stepOnce d)).flatten)

/-- R115: one edge of a sequence. The timer counts down; or the HIGH phase ends and STEP falls; or the LOW phase ends with
pulses left and STEP rises; or the last LOW phase ends and the operation completes with `OK`. Nothing else changes. -/
def Obligations.BusyEdgeMovesTheSequenceOn : Prop :=
  ∀ s : State, s.busy = true → s.sampled.rst = false →
    ∃ t, step s = .next t ∧ (∀ l, l ≠ .step → t.line l = s.line l) ∧ t.driver = s.driver ∧ t.inputs = s.inputs.tail ∧
      (s.holdLeft ≠ 0#32 →
        t.holdLeft.toNat = s.holdLeft.toNat - 1 ∧ t.seqState = s.seqState ∧ t.stepsLeft = s.stepsLeft ∧
        t.line .step = s.line .step ∧ (t.rspValid, t.rspStatus, t.rspData) = (false, s.rspStatus, s.rspData)) ∧
      (s.holdLeft = 0#32 → s.seqState = .phHigh →
        t.line .step = false ∧ t.holdLeft.toNat = max 1 s.stepDelayMicros.toNat - 1 ∧ t.seqState = .phLow ∧
        t.stepsLeft = s.stepsLeft ∧ (t.rspValid, t.rspStatus, t.rspData) = (false, s.rspStatus, s.rspData)) ∧
      (s.holdLeft = 0#32 → s.seqState = .phLow → s.stepsLeft ≠ 1#32 →
        t.line .step = true ∧ t.holdLeft.toNat = max 1 s.stepDelayMicros.toNat - 1 ∧ t.seqState = .phHigh ∧
        t.stepsLeft = s.stepsLeft - 1#32 ∧
        (t.rspValid, t.rspStatus, t.rspData) = (false, s.rspStatus, s.rspData)) ∧
      (s.holdLeft = 0#32 → s.seqState = .phLow → s.stepsLeft = 1#32 →
        t.line .step = s.line .step ∧ t.holdLeft = 0#32 ∧ t.seqState = .idle ∧ t.stepsLeft = 0#32 ∧
        t.rspValid = true ∧ t.rspStatus = .ok ∧ t.rspData = 0#32)

/-- R119: the timeline of `n` pulses: in pulse `j`, cycle `c` of the HIGH phase and of the LOW phase, `D` cycles each, the
level of STEP, the timer and the pulses left. Whatever stands on the command port meanwhile changes nothing of it. -/
def Obligations.PulseTimelineIsExactToTheCycle : Prop :=
  ∀ (s : State) (n : Word) (D j c : Nat), StepAccepted s n → D = (eff s.stepDelayMicros).toNat → j < n.toNat → c < D →
    (∃ t, runEdges (1 + 2 * j * D + c) s = .next t ∧ t.seqState = .phHigh ∧ t.line .step = true ∧
      t.holdLeft.toNat = D - 1 - c ∧ t.stepsLeft.toNat = n.toNat - j) ∧
    (∃ t, runEdges (1 + (2 * j + 1) * D + c) s = .next t ∧ t.seqState = .phLow ∧ t.line .step = false ∧
      t.holdLeft.toNat = D - 1 - c ∧ t.stepsLeft.toNat = n.toNat - j)

/-- R116: a sequence of `n` pulses is busy for exactly `2 * n * D` cycles without a response, and the edge after them
completes it: idle, STEP LOW, `OK` with data 0, everything else as it was. The next edge can accept a command, and shows no
response if it does not. -/
def Obligations.SequenceCompletesAfterItsExactDuration : Prop :=
  ∀ (s : State) (n : Word) (T : Nat), StepAccepted s n → T = 2 * n.toNat * (eff s.stepDelayMicros).toNat →
    (∀ c < T, ∃ t, runEdges (1 + c) s = .next t ∧ t.busy = true ∧ t.rspValid = false) ∧
    ∃ t, runEdges (1 + T) s = .next t ∧ (∀ l, t.line l = if l = .step then false else s.line l) ∧
      t = { s with
        lines := t.lines, holdLeft := 0#32, stepsLeft := 0#32, rspValid := true, rspStatus := .ok, rspData := 0#32,
        inputs := s.inputs.drop (1 + T) } ∧
      t.cmdReady = true ∧
      (t.sampled.cmdValid = false → ∀ u, step t = .next u → u.rspValid = false)

/-- R122, R173: the wire shows `n` falling edges, and `n` rising edges if STEP was LOW before, one fewer if it was HIGH. -/
def Obligations.SequenceShowsItsPulsesOnTheWire : Prop :=
  ∀ (s : State) (n : Word) (T : Nat), StepAccepted s n → T = 2 * n.toNat * (eff s.stepDelayMicros).toNat →
    countEdges stepRises (1 + T) s = n.toNat - (s.line .step).toNat ∧ countEdges stepFalls (1 + T) s = n.toNat

/-- R120: from every state the invariant allows, the block is idle again within `2 * (2^32 - 1)^2` edges, whatever stands on
its input ports. -/
def Obligations.EverySequenceEnds : Prop :=
  ∀ s : State, s.Inv → ∃ k ≤ 2 * (2 ^ 32 - 1) ^ 2, ∃ t, runEdges k s = .next t ∧ t.cmdReady = true

/-- R9: the cycle level refines the operation level. For every operation an idle block accepts, with no reset before it is
over, the lines are cycle after cycle those of its ordered writes and holds, the block is busy until the last hold has
elapsed, and it then shows the DriverState and the response of the operation level. -/
def Obligations.CycleLevelRefinesOperationLevel : Prop :=
  ∀ (s : State) (i : Instr) (es : List OpEvent) (T : Nat),
    s.seqState = .idle → s.sampled.rst = false → s.sampled.cmdValid = true → i = decode s.sampled.word →
    es = events Config.hasEn i s.driver → T = eventCycles es → noReset (s.inputs.tail.take T) = true →
    (∀ c ≤ T, ∃ t, runEdges (1 + c) s = .next t ∧ t.lines = levelsAt s.lines es c) ∧
    (∀ c < T, ∃ t, runEdges (1 + c) s = .next t ∧ t.busy = true ∧ t.rspValid = false) ∧
    ∃ t, runEdges (1 + T) s = .next t ∧ t.busy = false ∧ t.driver = driverAfter i s.driver ∧ t.rspValid = true ∧
      (t.rspStatus, t.rspData) = responseOf i s.driver

/-! ## VERSION and the reserved opcodes (spec/44_version_reserved.md) -/

/-- R130: VERSION answers `OK` with `VERSION_ID`, whatever the operand field and the state, and changes nothing else. -/
def Obligations.VersionAnswersTheVersionId : Prop :=
  ∀ (a : Word) (s : State), decode (CmdWord.ofFields 0x8#4 a) = .version ∧
    exec .version s = .next { s with rspValid := true, rspStatus := .ok, rspData := Config.versionId }

/-- R131: each of the eight reserved opcodes, with any operand field, answers `ERR_BADOP`, code 2, with data 0, and changes
nothing else. -/
def Obligations.ReservedOpcodesAnswerBadOp : Prop :=
  ∀ r ∈ reservedOpcodes, ∀ (a : Word) (s : State), decode (CmdWord.ofFields r.1 a) = r.2 ∧
    exec r.2 s = .next { s with rspValid := true, rspStatus := .errBadOp, rspData := 0#32 } ∧
    Status.errBadOp.code = 2#2
end

