-- ==== Sys2Proof/Laws/Decode.lean ====
section
/-! SUPPORT. Laws/Decode.lean: the fields of a command word (R60). -/

namespace Sys2Proof

@[simp] theorem CmdWord.op_ofFields (op : BitVec 4) (arg : Word) : (CmdWord.ofFields op arg).op = op := by
  apply BitVec.eq_of_getLsbD_eq
  intro i hi
  simp only [CmdWord.op, CmdWord.ofFields, BitVec.getLsbD_extractLsb', BitVec.getLsbD_append, hi, decide_true, Bool.true_and]
  simp

@[simp] theorem CmdWord.arg_ofFields (op : BitVec 4) (arg : Word) : (CmdWord.ofFields op arg).arg = arg := by
  apply BitVec.eq_of_getLsbD_eq
  intro i hi
  simp only [CmdWord.arg, CmdWord.ofFields, BitVec.getLsbD_extractLsb', BitVec.getLsbD_append, hi, decide_true,
    Bool.true_and, Nat.zero_add, if_true]

@[simp] theorem CmdWord.ofFields_op_arg (w : CmdWord) : CmdWord.ofFields w.op w.arg = w := by
  apply BitVec.eq_of_getLsbD_eq
  intro i hi
  simp only [CmdWord.op, CmdWord.arg, CmdWord.ofFields, BitVec.getLsbD_append, BitVec.getLsbD_extractLsb']
  split <;> rename_i h
  · simp [h]
  · have h1 : i - 32 < 4 := by omega
    have h2 : 32 + (i - 32) = i := by omega
    simp [h1, h2]

/-- An opcode is one of sixteen. -/
theorem opcode_cases (op : BitVec 4) :
    op = 0x0#4 ∨ op = 0x1#4 ∨ op = 0x2#4 ∨ op = 0x3#4 ∨ op = 0x4#4 ∨ op = 0x5#4 ∨ op = 0x6#4 ∨ op = 0x7#4 ∨
    op = 0x8#4 ∨ op = 0x9#4 ∨ op = 0xA#4 ∨ op = 0xB#4 ∨ op = 0xC#4 ∨ op = 0xD#4 ∨ op = 0xE#4 ∨ op = 0xF#4 := by
  revert op; decide

end Sys2Proof
end

