-- ==== Sys2Proof/Laws/State.lean ====
section
/-! SUPPORT. Laws/State.lean: for each update of the state what every field reads afterwards, so that no proof unfolds a
record update. -/

namespace Sys2Proof.Machine

/-! `State.setDirection`: one register (R11). -/

@[simp] theorem State.setDirection_direction (s : State) (v : Bool) :
    (s.setDirection v).direction = v := rfl
@[simp] theorem State.setDirection_stepDelayMicros (s : State) (v : Bool) :
    (s.setDirection v).stepDelayMicros = s.stepDelayMicros := rfl
@[simp] theorem State.setDirection_stepsPerRevolution (s : State) (v : Bool) :
    (s.setDirection v).stepsPerRevolution = s.stepsPerRevolution := rfl
@[simp] theorem State.setDirection_currentStepMode (s : State) (v : Bool) :
    (s.setDirection v).currentStepMode = s.currentStepMode := rfl
@[simp] theorem State.setDirection_lines (s : State) (v : Bool) :
    (s.setDirection v).lines = s.lines := rfl
@[simp] theorem State.setDirection_seqState (s : State) (v : Bool) :
    (s.setDirection v).seqState = s.seqState := rfl
@[simp] theorem State.setDirection_holdLeft (s : State) (v : Bool) :
    (s.setDirection v).holdLeft = s.holdLeft := rfl
@[simp] theorem State.setDirection_stepsLeft (s : State) (v : Bool) :
    (s.setDirection v).stepsLeft = s.stepsLeft := rfl
@[simp] theorem State.setDirection_rspValid (s : State) (v : Bool) :
    (s.setDirection v).rspValid = s.rspValid := rfl
@[simp] theorem State.setDirection_rspStatus (s : State) (v : Bool) :
    (s.setDirection v).rspStatus = s.rspStatus := rfl
@[simp] theorem State.setDirection_rspData (s : State) (v : Bool) :
    (s.setDirection v).rspData = s.rspData := rfl
@[simp] theorem State.setDirection_inputs (s : State) (v : Bool) :
    (s.setDirection v).inputs = s.inputs := rfl

/-! `State.setDelayMicros`: one register (R12). -/

@[simp] theorem State.setDelayMicros_direction (s : State) (d : Word) :
    (s.setDelayMicros d).direction = s.direction := rfl
@[simp] theorem State.setDelayMicros_stepDelayMicros (s : State) (d : Word) :
    (s.setDelayMicros d).stepDelayMicros = d := rfl
@[simp] theorem State.setDelayMicros_stepsPerRevolution (s : State) (d : Word) :
    (s.setDelayMicros d).stepsPerRevolution = s.stepsPerRevolution := rfl
@[simp] theorem State.setDelayMicros_currentStepMode (s : State) (d : Word) :
    (s.setDelayMicros d).currentStepMode = s.currentStepMode := rfl
@[simp] theorem State.setDelayMicros_lines (s : State) (d : Word) :
    (s.setDelayMicros d).lines = s.lines := rfl
@[simp] theorem State.setDelayMicros_seqState (s : State) (d : Word) :
    (s.setDelayMicros d).seqState = s.seqState := rfl
@[simp] theorem State.setDelayMicros_holdLeft (s : State) (d : Word) :
    (s.setDelayMicros d).holdLeft = s.holdLeft := rfl
@[simp] theorem State.setDelayMicros_stepsLeft (s : State) (d : Word) :
    (s.setDelayMicros d).stepsLeft = s.stepsLeft := rfl
@[simp] theorem State.setDelayMicros_rspValid (s : State) (d : Word) :
    (s.setDelayMicros d).rspValid = s.rspValid := rfl
@[simp] theorem State.setDelayMicros_rspStatus (s : State) (d : Word) :
    (s.setDelayMicros d).rspStatus = s.rspStatus := rfl
@[simp] theorem State.setDelayMicros_rspData (s : State) (d : Word) :
    (s.setDelayMicros d).rspData = s.rspData := rfl
@[simp] theorem State.setDelayMicros_inputs (s : State) (d : Word) :
    (s.setDelayMicros d).inputs = s.inputs := rfl

/-! `State.setMode`: one register (R14). -/

@[simp] theorem State.setMode_direction (s : State) (m : StepMode) :
    (s.setMode m).direction = s.direction := rfl
@[simp] theorem State.setMode_stepDelayMicros (s : State) (m : StepMode) :
    (s.setMode m).stepDelayMicros = s.stepDelayMicros := rfl
@[simp] theorem State.setMode_stepsPerRevolution (s : State) (m : StepMode) :
    (s.setMode m).stepsPerRevolution = s.stepsPerRevolution := rfl
@[simp] theorem State.setMode_currentStepMode (s : State) (m : StepMode) :
    (s.setMode m).currentStepMode = m := rfl
@[simp] theorem State.setMode_lines (s : State) (m : StepMode) :
    (s.setMode m).lines = s.lines := rfl
@[simp] theorem State.setMode_seqState (s : State) (m : StepMode) :
    (s.setMode m).seqState = s.seqState := rfl
@[simp] theorem State.setMode_holdLeft (s : State) (m : StepMode) :
    (s.setMode m).holdLeft = s.holdLeft := rfl
@[simp] theorem State.setMode_stepsLeft (s : State) (m : StepMode) :
    (s.setMode m).stepsLeft = s.stepsLeft := rfl
@[simp] theorem State.setMode_rspValid (s : State) (m : StepMode) :
    (s.setMode m).rspValid = s.rspValid := rfl
@[simp] theorem State.setMode_rspStatus (s : State) (m : StepMode) :
    (s.setMode m).rspStatus = s.rspStatus := rfl
@[simp] theorem State.setMode_rspData (s : State) (m : StepMode) :
    (s.setMode m).rspData = s.rspData := rfl
@[simp] theorem State.setMode_inputs (s : State) (m : StepMode) :
    (s.setMode m).inputs = s.inputs := rfl

/-! `State.setLines`: the line registers (R18). -/

@[simp] theorem State.setLines_direction (s : State) (ls : BitVec 5) :
    (s.setLines ls).direction = s.direction := rfl
@[simp] theorem State.setLines_stepDelayMicros (s : State) (ls : BitVec 5) :
    (s.setLines ls).stepDelayMicros = s.stepDelayMicros := rfl
@[simp] theorem State.setLines_stepsPerRevolution (s : State) (ls : BitVec 5) :
    (s.setLines ls).stepsPerRevolution = s.stepsPerRevolution := rfl
@[simp] theorem State.setLines_currentStepMode (s : State) (ls : BitVec 5) :
    (s.setLines ls).currentStepMode = s.currentStepMode := rfl
@[simp] theorem State.setLines_lines (s : State) (ls : BitVec 5) :
    (s.setLines ls).lines = ls := rfl
@[simp] theorem State.setLines_seqState (s : State) (ls : BitVec 5) :
    (s.setLines ls).seqState = s.seqState := rfl
@[simp] theorem State.setLines_holdLeft (s : State) (ls : BitVec 5) :
    (s.setLines ls).holdLeft = s.holdLeft := rfl
@[simp] theorem State.setLines_stepsLeft (s : State) (ls : BitVec 5) :
    (s.setLines ls).stepsLeft = s.stepsLeft := rfl
@[simp] theorem State.setLines_rspValid (s : State) (ls : BitVec 5) :
    (s.setLines ls).rspValid = s.rspValid := rfl
@[simp] theorem State.setLines_rspStatus (s : State) (ls : BitVec 5) :
    (s.setLines ls).rspStatus = s.rspStatus := rfl
@[simp] theorem State.setLines_rspData (s : State) (ls : BitVec 5) :
    (s.setLines ls).rspData = s.rspData := rfl
@[simp] theorem State.setLines_inputs (s : State) (ls : BitVec 5) :
    (s.setLines ls).inputs = s.inputs := rfl

/-! `State.lineWrite`: one line (R42). -/

@[simp] theorem State.lineWrite_direction (s : State) (l : Line) (v : Bool) :
    (s.lineWrite l v).direction = s.direction := rfl
@[simp] theorem State.lineWrite_stepDelayMicros (s : State) (l : Line) (v : Bool) :
    (s.lineWrite l v).stepDelayMicros = s.stepDelayMicros := rfl
@[simp] theorem State.lineWrite_stepsPerRevolution (s : State) (l : Line) (v : Bool) :
    (s.lineWrite l v).stepsPerRevolution = s.stepsPerRevolution := rfl
@[simp] theorem State.lineWrite_currentStepMode (s : State) (l : Line) (v : Bool) :
    (s.lineWrite l v).currentStepMode = s.currentStepMode := rfl
@[simp] theorem State.lineWrite_lines (s : State) (l : Line) (v : Bool) :
    (s.lineWrite l v).lines = writeBit s.lines l.index v := rfl
@[simp] theorem State.lineWrite_seqState (s : State) (l : Line) (v : Bool) :
    (s.lineWrite l v).seqState = s.seqState := rfl
@[simp] theorem State.lineWrite_holdLeft (s : State) (l : Line) (v : Bool) :
    (s.lineWrite l v).holdLeft = s.holdLeft := rfl
@[simp] theorem State.lineWrite_stepsLeft (s : State) (l : Line) (v : Bool) :
    (s.lineWrite l v).stepsLeft = s.stepsLeft := rfl
@[simp] theorem State.lineWrite_rspValid (s : State) (l : Line) (v : Bool) :
    (s.lineWrite l v).rspValid = s.rspValid := rfl
@[simp] theorem State.lineWrite_rspStatus (s : State) (l : Line) (v : Bool) :
    (s.lineWrite l v).rspStatus = s.rspStatus := rfl
@[simp] theorem State.lineWrite_rspData (s : State) (l : Line) (v : Bool) :
    (s.lineWrite l v).rspData = s.rspData := rfl
@[simp] theorem State.lineWrite_inputs (s : State) (l : Line) (v : Bool) :
    (s.lineWrite l v).inputs = s.inputs := rfl

/-! `State.writePattern`: the four mode lines (R46). -/

@[simp] theorem State.writePattern_direction (s : State) (p : BitVec 4) :
    (s.writePattern p).direction = s.direction := rfl
@[simp] theorem State.writePattern_stepDelayMicros (s : State) (p : BitVec 4) :
    (s.writePattern p).stepDelayMicros = s.stepDelayMicros := rfl
@[simp] theorem State.writePattern_stepsPerRevolution (s : State) (p : BitVec 4) :
    (s.writePattern p).stepsPerRevolution = s.stepsPerRevolution := rfl
@[simp] theorem State.writePattern_currentStepMode (s : State) (p : BitVec 4) :
    (s.writePattern p).currentStepMode = s.currentStepMode := rfl
@[simp] theorem State.writePattern_lines (s : State) (p : BitVec 4) :
    (s.writePattern p).lines = s.lines.extractLsb' 4 1 ++ p := rfl
@[simp] theorem State.writePattern_seqState (s : State) (p : BitVec 4) :
    (s.writePattern p).seqState = s.seqState := rfl
@[simp] theorem State.writePattern_holdLeft (s : State) (p : BitVec 4) :
    (s.writePattern p).holdLeft = s.holdLeft := rfl
@[simp] theorem State.writePattern_stepsLeft (s : State) (p : BitVec 4) :
    (s.writePattern p).stepsLeft = s.stepsLeft := rfl
@[simp] theorem State.writePattern_rspValid (s : State) (p : BitVec 4) :
    (s.writePattern p).rspValid = s.rspValid := rfl
@[simp] theorem State.writePattern_rspStatus (s : State) (p : BitVec 4) :
    (s.writePattern p).rspStatus = s.rspStatus := rfl
@[simp] theorem State.writePattern_rspData (s : State) (p : BitVec 4) :
    (s.writePattern p).rspData = s.rspData := rfl
@[simp] theorem State.writePattern_inputs (s : State) (p : BitVec 4) :
    (s.writePattern p).inputs = s.inputs := rfl

/-! `State.setSequencer`: the sequencer registers (R23 to R25). -/

@[simp] theorem State.setSequencer_direction (s : State) (q : SeqState) (h n : Word) :
    (s.setSequencer q h n).direction = s.direction := rfl
@[simp] theorem State.setSequencer_stepDelayMicros (s : State) (q : SeqState) (h n : Word) :
    (s.setSequencer q h n).stepDelayMicros = s.stepDelayMicros := rfl
@[simp] theorem State.setSequencer_stepsPerRevolution (s : State) (q : SeqState) (h n : Word) :
    (s.setSequencer q h n).stepsPerRevolution = s.stepsPerRevolution := rfl
@[simp] theorem State.setSequencer_currentStepMode (s : State) (q : SeqState) (h n : Word) :
    (s.setSequencer q h n).currentStepMode = s.currentStepMode := rfl
@[simp] theorem State.setSequencer_lines (s : State) (q : SeqState) (h n : Word) :
    (s.setSequencer q h n).lines = s.lines := rfl
@[simp] theorem State.setSequencer_seqState (s : State) (q : SeqState) (h n : Word) :
    (s.setSequencer q h n).seqState = q := rfl
@[simp] theorem State.setSequencer_holdLeft (s : State) (q : SeqState) (h n : Word) :
    (s.setSequencer q h n).holdLeft = h := rfl
@[simp] theorem State.setSequencer_stepsLeft (s : State) (q : SeqState) (h n : Word) :
    (s.setSequencer q h n).stepsLeft = n := rfl
@[simp] theorem State.setSequencer_rspValid (s : State) (q : SeqState) (h n : Word) :
    (s.setSequencer q h n).rspValid = s.rspValid := rfl
@[simp] theorem State.setSequencer_rspStatus (s : State) (q : SeqState) (h n : Word) :
    (s.setSequencer q h n).rspStatus = s.rspStatus := rfl
@[simp] theorem State.setSequencer_rspData (s : State) (q : SeqState) (h n : Word) :
    (s.setSequencer q h n).rspData = s.rspData := rfl
@[simp] theorem State.setSequencer_inputs (s : State) (q : SeqState) (h n : Word) :
    (s.setSequencer q h n).inputs = s.inputs := rfl

/-! `State.respond`: the response registers (R26). -/

@[simp] theorem State.respond_direction (s : State) (st : Status) (d : Word) :
    (s.respond st d).direction = s.direction := rfl
@[simp] theorem State.respond_stepDelayMicros (s : State) (st : Status) (d : Word) :
    (s.respond st d).stepDelayMicros = s.stepDelayMicros := rfl
@[simp] theorem State.respond_stepsPerRevolution (s : State) (st : Status) (d : Word) :
    (s.respond st d).stepsPerRevolution = s.stepsPerRevolution := rfl
@[simp] theorem State.respond_currentStepMode (s : State) (st : Status) (d : Word) :
    (s.respond st d).currentStepMode = s.currentStepMode := rfl
@[simp] theorem State.respond_lines (s : State) (st : Status) (d : Word) :
    (s.respond st d).lines = s.lines := rfl
@[simp] theorem State.respond_seqState (s : State) (st : Status) (d : Word) :
    (s.respond st d).seqState = s.seqState := rfl
@[simp] theorem State.respond_holdLeft (s : State) (st : Status) (d : Word) :
    (s.respond st d).holdLeft = s.holdLeft := rfl
@[simp] theorem State.respond_stepsLeft (s : State) (st : Status) (d : Word) :
    (s.respond st d).stepsLeft = s.stepsLeft := rfl
@[simp] theorem State.respond_rspValid (s : State) (st : Status) (d : Word) :
    (s.respond st d).rspValid = true := rfl
@[simp] theorem State.respond_rspStatus (s : State) (st : Status) (d : Word) :
    (s.respond st d).rspStatus = st := rfl
@[simp] theorem State.respond_rspData (s : State) (st : Status) (d : Word) :
    (s.respond st d).rspData = d := rfl
@[simp] theorem State.respond_inputs (s : State) (st : Status) (d : Word) :
    (s.respond st d).inputs = s.inputs := rfl

/-! `State.raise`: an error is a response and nothing else (R144). -/

@[simp] theorem State.raise_direction (s : State) (e : OpError) :
    (s.raise e).direction = s.direction := rfl
@[simp] theorem State.raise_stepDelayMicros (s : State) (e : OpError) :
    (s.raise e).stepDelayMicros = s.stepDelayMicros := rfl
@[simp] theorem State.raise_stepsPerRevolution (s : State) (e : OpError) :
    (s.raise e).stepsPerRevolution = s.stepsPerRevolution := rfl
@[simp] theorem State.raise_currentStepMode (s : State) (e : OpError) :
    (s.raise e).currentStepMode = s.currentStepMode := rfl
@[simp] theorem State.raise_lines (s : State) (e : OpError) :
    (s.raise e).lines = s.lines := rfl
@[simp] theorem State.raise_seqState (s : State) (e : OpError) :
    (s.raise e).seqState = s.seqState := rfl
@[simp] theorem State.raise_holdLeft (s : State) (e : OpError) :
    (s.raise e).holdLeft = s.holdLeft := rfl
@[simp] theorem State.raise_stepsLeft (s : State) (e : OpError) :
    (s.raise e).stepsLeft = s.stepsLeft := rfl
@[simp] theorem State.raise_rspValid (s : State) (e : OpError) :
    (s.raise e).rspValid = true := rfl
@[simp] theorem State.raise_rspStatus (s : State) (e : OpError) :
    (s.raise e).rspStatus = e.status := rfl
@[simp] theorem State.raise_rspData (s : State) (e : OpError) :
    (s.raise e).rspData = 0#32 := rfl
@[simp] theorem State.raise_inputs (s : State) (e : OpError) :
    (s.raise e).inputs = s.inputs := rfl

/-! `State.noResponse`: no operation completes (R26). -/

@[simp] theorem State.noResponse_direction (s : State) :
    (s.noResponse).direction = s.direction := rfl
@[simp] theorem State.noResponse_stepDelayMicros (s : State) :
    (s.noResponse).stepDelayMicros = s.stepDelayMicros := rfl
@[simp] theorem State.noResponse_stepsPerRevolution (s : State) :
    (s.noResponse).stepsPerRevolution = s.stepsPerRevolution := rfl
@[simp] theorem State.noResponse_currentStepMode (s : State) :
    (s.noResponse).currentStepMode = s.currentStepMode := rfl
@[simp] theorem State.noResponse_lines (s : State) :
    (s.noResponse).lines = s.lines := rfl
@[simp] theorem State.noResponse_seqState (s : State) :
    (s.noResponse).seqState = s.seqState := rfl
@[simp] theorem State.noResponse_holdLeft (s : State) :
    (s.noResponse).holdLeft = s.holdLeft := rfl
@[simp] theorem State.noResponse_stepsLeft (s : State) :
    (s.noResponse).stepsLeft = s.stepsLeft := rfl
@[simp] theorem State.noResponse_rspValid (s : State) :
    (s.noResponse).rspValid = false := rfl
@[simp] theorem State.noResponse_rspStatus (s : State) :
    (s.noResponse).rspStatus = s.rspStatus := rfl
@[simp] theorem State.noResponse_rspData (s : State) :
    (s.noResponse).rspData = s.rspData := rfl
@[simp] theorem State.noResponse_inputs (s : State) :
    (s.noResponse).inputs = s.inputs := rfl

/-! `State.dropInput`: the waveform moves on (log entry 3). -/

@[simp] theorem State.dropInput_direction (s : State) :
    (s.dropInput).direction = s.direction := rfl
@[simp] theorem State.dropInput_stepDelayMicros (s : State) :
    (s.dropInput).stepDelayMicros = s.stepDelayMicros := rfl
@[simp] theorem State.dropInput_stepsPerRevolution (s : State) :
    (s.dropInput).stepsPerRevolution = s.stepsPerRevolution := rfl
@[simp] theorem State.dropInput_currentStepMode (s : State) :
    (s.dropInput).currentStepMode = s.currentStepMode := rfl
@[simp] theorem State.dropInput_lines (s : State) :
    (s.dropInput).lines = s.lines := rfl
@[simp] theorem State.dropInput_seqState (s : State) :
    (s.dropInput).seqState = s.seqState := rfl
@[simp] theorem State.dropInput_holdLeft (s : State) :
    (s.dropInput).holdLeft = s.holdLeft := rfl
@[simp] theorem State.dropInput_stepsLeft (s : State) :
    (s.dropInput).stepsLeft = s.stepsLeft := rfl
@[simp] theorem State.dropInput_rspValid (s : State) :
    (s.dropInput).rspValid = s.rspValid := rfl
@[simp] theorem State.dropInput_rspStatus (s : State) :
    (s.dropInput).rspStatus = s.rspStatus := rfl
@[simp] theorem State.dropInput_rspData (s : State) :
    (s.dropInput).rspData = s.rspData := rfl
@[simp] theorem State.dropInput_inputs (s : State) :
    (s.dropInput).inputs = s.inputs.tail := rfl

/-! `State.present`: a word on the port (R27). -/

@[simp] theorem State.present_direction (s : State) (w : CmdWord) :
    (s.present w).direction = s.direction := rfl
@[simp] theorem State.present_stepDelayMicros (s : State) (w : CmdWord) :
    (s.present w).stepDelayMicros = s.stepDelayMicros := rfl
@[simp] theorem State.present_stepsPerRevolution (s : State) (w : CmdWord) :
    (s.present w).stepsPerRevolution = s.stepsPerRevolution := rfl
@[simp] theorem State.present_currentStepMode (s : State) (w : CmdWord) :
    (s.present w).currentStepMode = s.currentStepMode := rfl
@[simp] theorem State.present_lines (s : State) (w : CmdWord) :
    (s.present w).lines = s.lines := rfl
@[simp] theorem State.present_seqState (s : State) (w : CmdWord) :
    (s.present w).seqState = s.seqState := rfl
@[simp] theorem State.present_holdLeft (s : State) (w : CmdWord) :
    (s.present w).holdLeft = s.holdLeft := rfl
@[simp] theorem State.present_stepsLeft (s : State) (w : CmdWord) :
    (s.present w).stepsLeft = s.stepsLeft := rfl
@[simp] theorem State.present_rspValid (s : State) (w : CmdWord) :
    (s.present w).rspValid = s.rspValid := rfl
@[simp] theorem State.present_rspStatus (s : State) (w : CmdWord) :
    (s.present w).rspStatus = s.rspStatus := rfl
@[simp] theorem State.present_rspData (s : State) (w : CmdWord) :
    (s.present w).rspData = s.rspData := rfl
@[simp] theorem State.present_inputs (s : State) (w : CmdWord) :
    (s.present w).inputs = .command w :: s.inputs.tail := rfl

/-! The level of a line after an update that writes none. -/

@[simp] theorem State.setDirection_line (s : State) (v : Bool) (k : Line) :
    (s.setDirection v).line k = s.line k := rfl
@[simp] theorem State.setDelayMicros_line (s : State) (d : Word) (k : Line) :
    (s.setDelayMicros d).line k = s.line k := rfl
@[simp] theorem State.setMode_line (s : State) (m : StepMode) (k : Line) :
    (s.setMode m).line k = s.line k := rfl
@[simp] theorem State.setSequencer_line (s : State) (q : SeqState) (h n : Word) (k : Line) :
    (s.setSequencer q h n).line k = s.line k := rfl
@[simp] theorem State.respond_line (s : State) (st : Status) (d : Word) (k : Line) :
    (s.respond st d).line k = s.line k := rfl
@[simp] theorem State.raise_line (s : State) (e : OpError) (k : Line) :
    (s.raise e).line k = s.line k := rfl
@[simp] theorem State.noResponse_line (s : State) (k : Line) :
    (s.noResponse).line k = s.line k := rfl
@[simp] theorem State.dropInput_line (s : State) (k : Line) :
    (s.dropInput).line k = s.line k := rfl
@[simp] theorem State.present_line (s : State) (w : CmdWord) (k : Line) :
    (s.present w).line k = s.line k := rfl

end Sys2Proof.Machine
end

