-- ==== Sys2Proof/Laws/Ops.lean ====
section
/-! SUPPORT. Laws/Ops.lean: one lemma for each shared operation, saying all it can do; the proofs about meanings and steps
cite these and do not unfold the operations. -/

namespace Sys2Proof.Machine

/-! ## Lines -/

/-- A line write changes one location (R42). -/
theorem writeBit_getLsbD (ls : BitVec 5) (i j : Nat) (v : Bool) (hi : i < 5) (hj : j < 5) :
    (writeBit ls i v).getLsbD j = if j = i then v else ls.getLsbD j := by
  have key : ∀ (ls : BitVec 5) (i j : Fin 5) (v : Bool),
      (writeBit ls i v).getLsbD j = if j = i then v else ls.getLsbD j := by decide
  simpa [Fin.ext_iff] using key ls ⟨i, hi⟩ ⟨j, hj⟩ v

theorem Line.index_lt (l : Line) : l.index < 5 := by cases l <;> decide

theorem Line.index_inj (k l : Line) : k.index = l.index ↔ k = l := by cases k <;> cases l <;> decide

/-- The level of a line after one line was written (R42). -/
@[simp] theorem State.lineWrite_line (s : State) (l k : Line) (v : Bool) :
    (s.lineWrite l v).line k = if k = l then v else s.line k := by
  simp only [State.line, State.lineWrite_lines, writeBit_getLsbD _ _ _ _ l.index_lt k.index_lt, Line.index_inj]

/-- The level of a line after a pattern was written (R46): the enable line keeps its own. -/
theorem State.writePattern_line (s : State) (p : BitVec 4) (k : Line) :
    (s.writePattern p).line k = if k = .en then s.line .en else p.getLsbD k.index := by
  have key : ∀ (ls : BitVec 5) (p : BitVec 4) (i : Fin 5),
      (ls.extractLsb' 4 1 ++ p).getLsbD i = if i = 4 then ls.getLsbD 4 else p.getLsbD i := by decide
  have h := key s.lines p ⟨k.index, k.index_lt⟩
  cases k <;> simpa [State.line, Line.index] using h

/-- The line registers are no more than their five levels. -/
theorem lines_ext {s t : State} (h : ∀ l, s.line l = t.line l) : s.lines = t.lines := by
  apply BitVec.eq_of_getLsbD_eq
  intro i hi
  interval_cases i
  exacts [h .mode1, h .mode2, h .step, h .dir, h .en]

/-- A line keeps its level when it is written with it (R42). -/
theorem writeBit_self (ls : BitVec 5) (l : Line) : writeBit ls l.index (ls.getLsbD l.index) = ls := by
  have key : ∀ (ls : BitVec 5) (i : Fin 5), writeBit ls i (ls.getLsbD i) = ls := by decide
  exact key ls ⟨l.index, l.index_lt⟩

/-- The enable line is written in a block that has one, and only there (R93, R94). -/
theorem State.enableLine_eq (s : State) (hasEn : Bool) (on : Word) :
    s.enableLine hasEn on = if hasEn then s.lineWrite .en (isNonzero on) else s := rfl

/-! ## Operands -/

theorem StepMode.mem_all (m : StepMode) : m ∈ StepMode.all := by cases m <;> decide

theorem StepMode.value_inj (m n : StepMode) : m.value = n.value ↔ m = n := by cases m <;> cases n <;> decide

/-- An operand names a mode exactly when it is that mode's value (R80). -/
theorem modeOf_eq_some (a : Word) (m : StepMode) : modeOf a = some m ↔ m.value = a := by
  constructor
  · intro h
    simpa using List.find?_some h
  · rintro rfl
    cases m <;> decide

/-- An operand names no mode exactly when it is no mode's value (R80). -/
theorem modeOf_eq_none (a : Word) : modeOf a = none ↔ ∀ m : StepMode, m.value ≠ a := by
  simp only [modeOf, List.find?_eq_none, beq_iff_eq]
  exact ⟨fun h m => h m m.mem_all, fun h m _ => h m⟩

theorem modeOf_value (m : StepMode) : modeOf m.value = some m := (modeOf_eq_some _ _).2 rfl

theorem isNonzero_eq (a : Word) : isNonzero a = decide (a ≠ 0#32) := by
  by_cases h : a = 0#32 <;> simp [isNonzero, h]

/-- A phase lasts at least one cycle (R113). -/
theorem eff_pos (d : Word) : 0 < (eff d).toNat := by
  unfold eff
  split
  · decide
  · rename_i h
    exact Nat.pos_of_ne_zero fun h0 => h (BitVec.eq_of_toNat_eq h0)

/-- What the phase timer is loaded with (R114, R115). -/
theorem eff_sub_one_toNat (d : Word) : (eff d - 1#32).toNat = (eff d).toNat - 1 := by
  have := eff_pos d
  simp only [BitVec.toNat_sub, BitVec.toNat_ofNat]
  omega

/-- A register that counts down (R105 (c)). -/
theorem sub_one_toNat {a : Word} (h : a ≠ 0#32) : (a - 1#32).toNat = a.toNat - 1 := by
  have h0 : a.toNat ≠ 0 := fun h0 => h (BitVec.eq_of_toNat_eq h0)
  simp only [BitVec.toNat_sub, BitVec.toNat_ofNat]
  omega

/-- The quotient of SETSPEED over the numbers (R102, R105). -/
theorem speedDelay_toNat (spr rpm : Word) : (speedDelay spr rpm).toNat = 60000000 / spr.toNat / rpm.toNat := rfl

/-! ## The sequencer -/

/-- All that the start of a phase does (R114, R115). -/
theorem State.openPhase_eq (s : State) (v : Bool) (q : SeqState) (n : Word) :
    s.openPhase v q n = { s with
      lines := writeBit s.lines 2 v, seqState := q, holdLeft := eff s.stepDelayMicros - 1#32, stepsLeft := n,
      rspValid := false } := rfl

/-- All that the end of a sequence does (R116). -/
theorem State.finishSequence_eq (s : State) :
    s.finishSequence = { s with
      seqState := .idle, stepsLeft := 0#32, rspValid := true, rspStatus := .ok, rspData := 0#32 } := rfl

/-- All that one edge of a sequence can do (R115): the phase goes on, the LOW phase opens, the next HIGH phase opens, or
the sequence ends. -/
theorem State.seqTick_cases (s : State) :
    (s.holdLeft ≠ 0#32 ∧ s.seqTick = { s with holdLeft := s.holdLeft - 1#32, rspValid := false }) ∨
    (s.holdLeft = 0#32 ∧ s.seqState = .phHigh ∧ s.seqTick = s.openPhase false .phLow s.stepsLeft) ∨
    (s.holdLeft = 0#32 ∧ s.seqState ≠ .phHigh ∧ s.stepsLeft ≠ 1#32 ∧
      s.seqTick = s.openPhase true .phHigh (s.stepsLeft - 1#32)) ∨
    (s.holdLeft = 0#32 ∧ s.seqState ≠ .phHigh ∧ s.stepsLeft = 1#32 ∧ s.seqTick = s.finishSequence) := by
  unfold State.seqTick
  by_cases h1 : s.holdLeft = 0#32
  · by_cases h2 : s.seqState = .phHigh
    · simp [h1, h2]
    · by_cases h3 : s.stepsLeft = 1#32 <;> simp [h1, h2, h3]
  · simp [h1, State.setSequencer, State.noResponse]

/-! ## The kinds of edge (R28, R121, R146) -/

theorem State.edgeAction_reset (s : State) (h : s.sampled.rst = true) :
    s.edgeAction = .reset s.sampled.cfgSpr := by
  simp [State.edgeAction, h]

theorem State.edgeAction_tick (s : State) (h : s.sampled.rst = false) (hq : s.seqState ≠ .idle) :
    s.edgeAction = .tick := by
  simp [State.edgeAction, h, hq]

theorem State.edgeAction_accept (s : State) (h : s.sampled.rst = false) (hq : s.seqState = .idle)
    (hv : s.sampled.cmdValid = true) : s.edgeAction = .accept s.sampled.word := by
  simp [State.edgeAction, h, hq, hv]

theorem State.edgeAction_quiet (s : State) (h : s.sampled.rst = false) (hq : s.seqState = .idle)
    (hv : s.sampled.cmdValid = false) : s.edgeAction = .quiet := by
  simp [State.edgeAction, h, hq, hv]

/-- Nothing but these four happens at an edge. -/
theorem State.edgeAction_cases (s : State) :
    (s.sampled.rst = true ∧ s.edgeAction = .reset s.sampled.cfgSpr) ∨
    (s.sampled.rst = false ∧ s.seqState ≠ .idle ∧ s.edgeAction = .tick) ∨
    (s.sampled.rst = false ∧ s.seqState = .idle ∧ s.sampled.cmdValid = true ∧
      s.edgeAction = .accept s.sampled.word) ∨
    (s.sampled.rst = false ∧ s.seqState = .idle ∧ s.sampled.cmdValid = false ∧ s.edgeAction = .quiet) := by
  unfold State.edgeAction
  cases s.sampled.rst <;> cases s.sampled.cmdValid <;> by_cases hq : s.seqState = .idle <;> simp [hq]

@[simp] theorem PortInput.command_word (w : CmdWord) : (PortInput.command w).word = w :=
  CmdWord.ofFields_op_arg w

/-- The output that tells a host it may present a command is the opposite of `busy` (R29). -/
theorem State.cmdReady_eq_not_busy (s : State) : s.cmdReady = !s.busy := by
  simp [State.cmdReady, State.busy, bne]

end Sys2Proof.Machine
end

