-- ==== Sys2Proof/Laws/PerInstr.lean ====
section
/-! SUPPORT. Laws/PerInstr.lean: facts about every operation as a term, one lemma for each constructor (LAWS.json).
Family EncodeFields: the two fields of the encoded word are the opcode and the operand of the operation (R60, R67). -/

namespace Sys2Proof.Laws.EncodeFields

def Statement (i : Instr) : Prop := (encode i).op = i.opcode ∧ (encode i).arg = i.operand

/-- The two fields do not overlap, whatever the operation. -/
theorem of_fields (i : Instr) : Statement i :=
  ⟨CmdWord.op_ofFields i.opcode i.operand, CmdWord.arg_ofFields i.opcode i.operand⟩

theorem setDelay (a : Word) : Statement (.setDelay a) := of_fields _
theorem enable (a : Word) : Statement (.enable a) := of_fields _
theorem setDir (a : Word) : Statement (.setDir a) := of_fields _
theorem step (a : Word) : Statement (.step a) := of_fields _
theorem setMode (a : Word) : Statement (.setMode a) := of_fields _
theorem setSpeed (a : Word) : Statement (.setSpeed a) := of_fields _
theorem stepOnce : Statement .stepOnce := of_fields _
theorem version : Statement .version := of_fields _
theorem reserved0 : Statement .reserved0 := of_fields _
theorem reserved9 : Statement .reserved9 := of_fields _
theorem reservedA : Statement .reservedA := of_fields _
theorem reservedB : Statement .reservedB := of_fields _
theorem reservedC : Statement .reservedC := of_fields _
theorem reservedD : Statement .reservedD := of_fields _
theorem reservedE : Statement .reservedE := of_fields _
theorem reservedF : Statement .reservedF := of_fields _

end Sys2Proof.Laws.EncodeFields
end

