-- ==== Sys2Proof/Laws/Step.lean ====
section
/-! SUPPORT. Laws/Step.lean: what an accepted operation and what an edge can do, said once; and runs of edges. -/

namespace Sys2Proof.Machine

/-! ## One edge, kind by kind (R121) -/

theorem step_of_reset (s : State) (h : s.sampled.rst = true) :
    step s = .next (s.dropInput.resetEdge s.sampled.cfgSpr) := by
  simp only [step, s.edgeAction_reset h]

theorem step_of_busy (s : State) (h : s.sampled.rst = false) (hq : s.seqState ≠ .idle) :
    step s = .next s.atEdge.seqTick := by
  simp only [step, s.edgeAction_tick h hq]

theorem step_of_accept (s : State) (h : s.sampled.rst = false) (hq : s.seqState = .idle)
    (hv : s.sampled.cmdValid = true) : step s = exec (decode s.sampled.word) s.atEdge := by
  simp only [step, s.edgeAction_accept h hq hv]

theorem step_of_quiet (s : State) (h : s.sampled.rst = false) (hq : s.seqState = .idle)
    (hv : s.sampled.cmdValid = false) : step s = .next s.atEdge := by
  simp only [step, s.edgeAction_quiet h hq hv]

/-! ## All that can come of an operation and of an edge

To prove `P` of the next state, prove it of each of these states. -/

/-- Every next state of an accepted operation is one of these. -/
theorem exec_cases (P : State → Prop) {i : Instr} {s t : State} (h : exec i s = .next t)
    (setDelay : ∀ a, i = .setDelay a → P ((s.setDelayMicros a).respond .ok 0#32))
    (enable : ∀ a, i = .enable a → P ((s.enableLine Config.hasEn a).respond .ok 0#32))
    (setDir : ∀ a, i = .setDir a →
      P (((s.lineWrite .dir (!isNonzero a)).setDirection (isNonzero a)).respond .ok 0#32))
    (stepZero : i = .step 0#32 → P (s.respond .ok 0#32))
    (steps : ∀ n, n ≠ 0#32 → i = .step n ∨ (i = .stepOnce ∧ n = 1#32) → P (s.startSequence n))
    (setMode : ∀ a m, i = .setMode a → modeOf a = some m →
      P (((s.writePattern (Config.modeTable m)).setMode m).respond .ok 0#32))
    (badMode : ∀ a, i = .setMode a → modeOf a = none → P (s.respond .ok 0#32))
    (speedError : ∀ a, i = .setSpeed a → a = 0#32 ∨ s.stepsPerRevolution = 0#32 → P (s.raise .div0))
    (setSpeed : ∀ a, i = .setSpeed a → a ≠ 0#32 → s.stepsPerRevolution ≠ 0#32 →
      P ((s.setDelayMicros (speedDelay s.stepsPerRevolution a)).respond .ok 0#32))
    (version : i = .version → P (s.respond .ok Config.versionId))
    (reserved : i.wellFormed = false → P (s.raise .badOp)) : P t := by
  cases i with
  | setDelay a => cases h; exact setDelay a rfl
  | enable a => cases h; exact enable a rfl
  | setDir a => cases h; exact setDir a rfl
  | step a =>
    simp only [exec, execStep, Host.Outcome.next.injEq] at h
    subst h
    split
    · rename_i h0; exact stepZero (by rw [h0])
    · rename_i h0; exact steps a h0 (.inl rfl)
  | stepOnce => cases h; exact steps 1#32 (by decide) (.inr ⟨rfl, rfl⟩)
  | setMode a =>
    simp only [exec, execSetMode, Host.Outcome.next.injEq] at h
    subst h
    split
    · rename_i m hm; exact setMode a m rfl hm
    · rename_i hm; exact badMode a rfl hm
  | setSpeed a =>
    simp only [exec, execSetSpeed, Host.Outcome.next.injEq] at h
    subst h
    split
    · rename_i h0; exact speedError a rfl h0
    · rename_i h0; exact setSpeed a rfl (fun e => h0 (.inl e)) (fun e => h0 (.inr e))
  | version => cases h; exact version rfl
  | reserved0 => cases h; exact reserved rfl
  | reserved9 => cases h; exact reserved rfl
  | reservedA => cases h; exact reserved rfl
  | reservedB => cases h; exact reserved rfl
  | reservedC => cases h; exact reserved rfl
  | reservedD => cases h; exact reserved rfl
  | reservedE => cases h; exact reserved rfl
  | reservedF => cases h; exact reserved rfl

/-- Every next state of one edge of a sequence is one of these (R115). -/
theorem seqTick_cases (P : State → Prop) (s : State)
    (hold : s.holdLeft ≠ 0#32 → P { s with holdLeft := s.holdLeft - 1#32, rspValid := false })
    (low : s.holdLeft = 0#32 → s.seqState = .phHigh → P (s.openPhase false .phLow s.stepsLeft))
    (high : s.holdLeft = 0#32 → s.seqState ≠ .phHigh → s.stepsLeft ≠ 1#32 →
      P (s.openPhase true .phHigh (s.stepsLeft - 1#32)))
    (finish : s.holdLeft = 0#32 → s.seqState ≠ .phHigh → s.stepsLeft = 1#32 → P s.finishSequence) : P s.seqTick := by
  rcases s.seqTick_cases with ⟨a, e⟩ | ⟨a, b, e⟩ | ⟨a, b, c, e⟩ | ⟨a, b, c, e⟩ <;> rw [e]
  exacts [hold a, low a b, high a b c, finish a b c]

/-- Every next state of an edge is one of these (R121). -/
theorem step_cases (P : State → Prop) {s t : State} (h : step s = .next t)
    (reset : s.sampled.rst = true → P (s.dropInput.resetEdge s.sampled.cfgSpr))
    (tick : s.sampled.rst = false → s.seqState ≠ .idle → P s.atEdge.seqTick)
    (quiet : s.sampled.rst = false → s.seqState = .idle → s.sampled.cmdValid = false → P s.atEdge)
    (accept : s.sampled.rst = false → s.seqState = .idle → s.sampled.cmdValid = true →
      exec (decode s.sampled.word) s.atEdge = .next t → P t) : P t := by
  rcases s.edgeAction_cases with ⟨h1, _⟩ | ⟨h1, h2, _⟩ | ⟨h1, h2, h3, _⟩ | ⟨h1, h2, h3, _⟩
  · rw [step_of_reset s h1] at h; cases h; exact reset h1
  · rw [step_of_busy s h1 h2] at h; cases h; exact tick h1 h2
  · rw [step_of_accept s h1 h2 h3] at h; exact accept h1 h2 h3 h
  · rw [step_of_quiet s h1 h2 h3] at h; cases h; exact quiet h1 h2 h3

/-! ## Lines through the operations over the sequencer and the edge -/

@[simp] theorem State.atEdge_line (s : State) (l : Line) : s.atEdge.line l = s.line l := rfl

@[simp] theorem State.openPhase_line (s : State) (v : Bool) (q : SeqState) (n : Word) (l : Line) :
    (s.openPhase v q n).line l = if l = .step then v else s.line l := by
  rw [State.openPhase, State.noResponse_line, State.setSequencer_line, State.lineWrite_line]

@[simp] theorem State.finishSequence_line (s : State) (l : Line) : s.finishSequence.line l = s.line l := rfl

@[simp] theorem State.enableLine_line (s : State) (hasEn : Bool) (on : Word) (l : Line) :
    (s.enableLine hasEn on).line l = if hasEn = true ∧ l = .en then decide (on ≠ 0#32) else s.line l := by
  rw [State.enableLine_eq]
  cases hasEn <;> simp [isNonzero_eq]

/-- The rising edge SETMODE itself makes is the one the hazard check and the host's record look for (R175). -/
theorem stepRises_writePattern (s : State) (m : StepMode) :
    stepRises s (s.writePattern (Config.modeTable m)) = modeRaisesStep s m := by
  cases m <;> simp [stepRises, modeRaisesStep, State.writePattern_line, Line.index, Config.modeTable]

/-! ## Runs -/

@[simp] theorem runEdges_zero (s : State) : runEdges 0 s = .next s := rfl

theorem runEdges_succ (k : Nat) {s t : State} (h : step s = .next t) : runEdges (k + 1) s = runEdges k t := by
  simp only [runEdges, h]

/-- A run of `j + k` edges is a run of `j` and then one of `k`. -/
theorem runEdges_add (j k : Nat) {s t : State} (h : runEdges j s = .next t) : runEdges (j + k) s = runEdges k t := by
  induction j generalizing s with
  | zero => cases h; rw [Nat.zero_add]
  | succ j ih =>
    rw [Nat.succ_add]
    cases hs : step s with
    | next u =>
      rw [runEdges_succ _ hs] at h ⊢
      exact ih h
    | fault r => simp only [runEdges, hs] at h; cases h
    | refused r => simp only [runEdges, hs] at h; cases h

/-- A run is what the host's `Core.run` gives. -/
theorem runEdges_eq_run (k : Nat) (s : State) : runEdges k s = Sys2Proof.core.run k s := by
  induction k generalizing s with
  | zero => rfl
  | succ k ih =>
    have hc : Sys2Proof.core.step s = step s := rfl
    cases hs : step s with
    | next u =>
      rw [hs] at hc
      simp only [Host.Core.run, hc]
      rw [runEdges_succ _ hs]
      exact ih u
    | fault r =>
      rw [hs] at hc
      simp only [Host.Core.run, hc, runEdges, hs]
      rfl
    | refused r =>
      rw [hs] at hc
      simp only [Host.Core.run, hc, runEdges, hs]
      rfl

theorem countEdges_succ (edge : State → State → Bool) (k : Nat) {s t : State} (h : step s = .next t) :
    countEdges edge (k + 1) s = (edge s t).toNat + countEdges edge k t := by
  simp only [countEdges, h]

end Sys2Proof.Machine
end

