-- ==== Sys2Proof/Tests/Slice0.lean ====
section
/-! SUPPORT. Tests/Slice0.lean: the model's own tests.
Expected values are those of spec/95_test_vectors.md and of the tables of the rules, never the model's answers.
Words are written out in binary as `opcode ++ operand`, from R60 and R63.
The last part shows, for each statement with hypotheses, a concrete case that meets them all. -/

namespace Sys2Proof.Tests

open Sys2Proof Sys2Proof.Machine Sys2Proof.Claims

/-- The next state, where there is one. -/
def nextOf : Host.Outcome State Fault Refusal → Option State
  | .next t => some t
  | .fault _ => none
  | .refused _ => none

/-- An idle block with these lines and this delay, everything else as at reset. -/
def idleWith (ls : BitVec 5) (delay : Word) : State := (State.reset.setLines ls).setDelayMicros delay

/-- A block within a sequence, delay 3 and DIR HIGH, as in program P1. -/
def busyWith (step : Bool) (q : SeqState) (hold steps : Word) : State :=
  ((idleWith 0b01010#5 3#32).lineWrite .step step).setSequencer q hold steps

/-- The inputs of the coming edges, for a state. -/
def feed (ps : List PortInput) (s : State) : State := { s with inputs := ps }

/-- Lines, sequencer state, timer, pulses left and `rsp_valid` of the next state: columns of the tables of Part 3. -/
def row (o : Host.Outcome State Fault Refusal) : Option (BitVec 5 × SeqState × Word × Word × Bool) :=
  (nextOf o).map (fun t => (t.lines, t.seqState, t.holdLeft, t.stepsLeft, t.rspValid))

/-- The delay and the response of the next state. -/
def answer (o : Host.Outcome State Fault Refusal) : Option (Word × Status × Word) :=
  (nextOf o).map (fun t => (t.stepDelayMicros, t.rspStatus, t.rspData))

/-! ## Well-formedness refuses what no assembler may emit -/

theorem test_wf_accepts_the_eight :
    [Instr.setDelay 0#32, .enable 0#32, .setDir 0#32, .step 0#32, .stepOnce, .setMode 3#32, .setSpeed 0#32, .version].all
      Instr.wellFormed = true := by decide

theorem test_wf_refuses_reserved :
    [Instr.reserved0, .reserved9, .reservedA, .reservedB, .reservedC, .reservedD, .reservedE, .reservedF].any
      Instr.wellFormed = false := by decide

theorem test_wf_text_operand_missing : (AsmTerm.mk .setStepMode none).wellFormed = false := by decide

theorem test_wf_text_operand_where_none_stands : (AsmTerm.mk .version (some 0)).wellFormed = false := by decide

theorem test_wf_text_operand_too_wide : (AsmTerm.mk .setDelay (some 4294967296)).wellFormed = false := by decide

theorem test_wf_text_widest_operand : (AsmTerm.mk .setDelay (some 4294967295)).wellFormed = true := by decide

/-! ## Decoding, one word for each constructor (R63, R64; spec/95_test_vectors.md 2.1) -/

theorem test_decode_setDelay :
    decode 0b000100000000000000000000011111010000#36 = .setDelay 2000#32 := by decide

theorem test_decode_enable : decode 0b001000000000000000000000000000000000#36 = .enable 0#32 := by decide

theorem test_decode_setDir :
    decode 0b001111111111111111111111111111111111#36 = .setDir 0xFFFFFFFF#32 := by decide

theorem test_decode_step : decode 0b010000000000000000000000000011001000#36 = .step 200#32 := by decide

theorem test_decode_stepOnce : decode 0b010111011110101011011011111011101111#36 = .stepOnce := by decide

theorem test_decode_setMode : decode 0b011000000000000000000000000100000000#36 = .setMode 256#32 := by decide

theorem test_decode_setMode_high_bits : decode 0x600010001#36 = .setMode 0x00010001#32 := by decide

theorem test_decode_setSpeed : decode 0b011100000000000000000000000000111100#36 = .setSpeed 60#32 := by decide

theorem test_decode_version : decode 0b100011111111111111111111111111111111#36 = .version := by decide

theorem test_decode_reserved :
    decode 0b000000000000000000000000000000000000#36 = .reserved0 ∧
    decode 0b100100000000000000000000000000000000#36 = .reserved9 ∧
    decode 0b101000000000000000000000000000000001#36 = .reservedA ∧
    decode 0b101100000000000000000000000000000000#36 = .reservedB ∧
    decode 0b110000000000000000000000000000000000#36 = .reservedC ∧
    decode 0b110100000000000000000000000000000000#36 = .reservedD ∧
    decode 0b111000000000000000000000000000000000#36 = .reservedE ∧
    decode 0b111100010010001101000101011001111000#36 = .reservedF := by decide

/-- The host's words: 40 bits given, of which 36 are the format (R60). -/
theorem test_decodeTableWord :
    decodeTableWord 40 0x600000010 = some (.setMode 16#32) ∧ decodeTableWord 36 0x70000003C = some (.setSpeed 60#32) ∧
    decodeTableWord 40 0x1600000010 = none := by decide

/-! ## The textual form (R67, R72; Part 3) -/

theorem test_text_call :
    readLine ['s', 'e', 't', 'S', 't', 'e', 'p', 'M', 'o', 'd', 'e', '(', '1', '6', ')']
      = some (.command 0x600000010#36) := by decide

theorem test_text_mnemonic_hex :
    readLine ['S', 'E', 'T', 'D', 'I', 'R', ' ', '0', 'x', '5'] = some (.command 0x300000005#36) := by decide

theorem test_text_reset :
    readLine ['R', 'E', 'S', 'E', 'T', ' ', 'c', 'f', 'g', '_', 's', 'p', 'r', '=', '2', '0', '0']
      = some (.reset 200#32) := by decide

theorem test_text_comment :
    readProgramLine ['s', 't', 'e', 'p', '(', '2', ')', ' ', ' ', ';', ' ', '0', 'x', '4']
      = some (.command 0x400000002#36) := by decide

/-- Digits of either case, the prefix in lower case, and no line of a comment alone (log entry 7). -/
theorem test_text_choices :
    readNumber ['0', 'x', 'a', 'F'] = some 0xAF ∧ readNumber ['0', 'X', '1'] = none ∧
    readProgramLine [' ', ';', ' ', 'a'] = none ∧ readProgramLine [] = none := by decide

theorem test_text_operand_missing : readLine ['s', 't', 'e', 'p', '(', ')'] = none := by decide

/-! ## SETMODE (S1, S2; 2.2) -/

theorem test_setMode_table :
    [1#32, 2#32, 4#32, 8#32, 16#32, 32#32, 64#32, 128#32, 256#32].map
        (fun m => (nextOf (exec (.setMode m) (idleWith 0b10110#5 3#32))).map (·.lines))
      = [0b10000#5, 0b10101#5, 0b11010#5, 0b11101#5, 0b11111#5, 0b10010#5, 0b11011#5, 0b11001#5, 0b11011#5].map some := by
  decide

theorem test_setMode_invalid_keeps_the_pattern :
    (nextOf (exec (.setMode 0x00010001#32) ((idleWith 0b00101#5 3#32).setMode .m8))).map
        (fun t => (t.lines, t.currentStepMode, t.rspValid, t.rspStatus))
      = some (0b00101#5, .m8, true, .ok) := by decide

/-! ## SETDIR and ENABLE (2.3) -/

theorem test_setDir_zero_is_high :
    (nextOf (exec (.setDir 0#32) (idleWith 0b00111#5 3#32))).map (fun t => (t.lines, t.direction))
      = some (0b01111#5, false) := by decide

theorem test_setDir_high_bit_is_low :
    (nextOf (exec (.setDir 0x80000000#32) (idleWith 0b01111#5 3#32))).map (fun t => (t.lines, t.direction))
      = some (0b00111#5, true) := by decide

theorem test_enable_with_the_line :
    ((idleWith 0b00000#5 3#32).enableLine true 0xFFFFFFFF#32).lines = 0b10000#5 ∧
    ((idleWith 0b10000#5 3#32).enableLine true 0#32).lines = 0b00000#5 := by decide

theorem test_enable_without_the_line : ((idleWith 0b00101#5 3#32).enableLine false 1#32).lines = 0b00101#5 := by decide

/-! ## SETDELAY and SETSPEED (2.4) -/

theorem test_setDelay_largest :
    answer (exec (.setDelay 0xFFFFFFFF#32) State.reset) = some (4294967295#32, .ok, 0#32) := by decide

theorem test_setSpeed_quotients :
    [60#32, 1#32, 7#32, 300000#32, 300001#32, 0xFFFFFFFF#32].map (fun r => answer (exec (.setSpeed r) State.reset))
      = [5000#32, 300000#32, 42857#32, 1#32, 0#32, 0#32].map (fun d => some (d, .ok, 0#32)) := by decide

theorem test_setSpeed_zero : answer (exec (.setSpeed 0#32) State.reset) = some (2000#32, .errDiv0, 0#32) := by decide

/-- The two divisions are made in order, each truncating. -/
theorem test_speedDelay_other_revolutions :
    speedDelay 48#32 100#32 = 12500#32 ∧ speedDelay 7#32 3#32 = 2857142#32 ∧ speedDelay 3#32 3#32 = 6666666#32 ∧
    speedDelay 60000001#32 1#32 = 0#32 ∧ speedDelay 1#32 1#32 = 60000000#32 := by decide

/-! ## STEP and STEPONCE (2.5; programs P1, P3 and P4) -/

theorem test_step_begins : row (exec (.step 2#32) (idleWith 0b01010#5 3#32))
    = some (0b01110#5, .phHigh, 2#32, 2#32, false) := by decide

theorem test_step_zero : row (exec (.step 0#32) (idleWith 0b01010#5 3#32))
    = some (0b01010#5, .idle, 0#32, 0#32, true) := by decide

theorem test_stepOnce_zero_delay : row (exec .stepOnce (idleWith 0b00000#5 0#32))
    = some (0b00100#5, .phHigh, 0#32, 1#32, false) := by decide

/-- P1, edge 5. -/
theorem test_tick_counts_down : row (step (busyWith true .phHigh 2#32 2#32))
    = some (0b01110#5, .phHigh, 1#32, 2#32, false) := by decide

/-- P1, edge 7. -/
theorem test_tick_high_to_low : row (step (busyWith true .phHigh 0#32 2#32))
    = some (0b01010#5, .phLow, 2#32, 2#32, false) := by decide

/-- P1, edge 10. -/
theorem test_tick_low_to_high : row (step (busyWith false .phLow 0#32 2#32))
    = some (0b01110#5, .phHigh, 2#32, 1#32, false) := by decide

/-- P1, edge 16. -/
theorem test_tick_completes : row (step (busyWith false .phLow 0#32 1#32))
    = some (0b01010#5, .idle, 0#32, 0#32, true) := by decide

/-! ## VERSION and the reserved opcodes (2.6) -/

theorem test_version : exec .version State.reset
    = .next { State.reset with rspValid := true, rspStatus := .ok, rspData := Config.versionId } := rfl

theorem test_reserved_writes_nothing :
    (nextOf (step (State.reset.withFetchWord 40 0x9000007D0))).map
        (fun t => (t.stepDelayMicros, t.rspStatus.code, t.rspData)) = some (2000#32, 2#2, 0#32) := by decide

/-! ## The edge (2.5, handshake corner cases) -/

/-- A placed word is the first one run after reset (P4, edge 5 from `LINES = 00000`). -/
theorem test_fetch_after_reset :
    (nextOf (step (State.reset.withFetchWord 40 0x600000010))).map (fun t => (t.lines, t.currentStepMode))
      = some (0b01111#5, .m16) := by decide

/-- A command presented while the block is busy is not accepted, at the completing edge neither. -/
theorem test_busy_ignores_the_port :
    answer (step (feed [.command 0x100000009#36] (busyWith false .phLow 0#32 1#32))) = some (3#32, .ok, 0#32) := by decide

/-- Reset comes before a running sequence and before a presented command. -/
theorem test_reset_wins :
    (nextOf (step (feed [⟨true, 400#32, true, 0x1#4, 9#32⟩] (busyWith true .phHigh 2#32 2#32)))).map
        (fun t => (t.seqState, t.lines, t.stepDelayMicros, t.stepsPerRevolution))
      = some (.idle, 0b00000#5, 2000#32, 400#32) := by decide

theorem test_reset_values :
    (State.reset.stepDelayMicros, State.reset.stepsPerRevolution, State.reset.currentStepMode, State.reset.lines,
      (State.resetWith 48#32).stepsPerRevolution) = (2000#32, 200#32, .m1, 0b00000#5, 48#32) := by decide

/-! ## What is no invariant (R22; P4's end state) -/

/-- `SETMODE 16; SETDIR 5` leaves lines that are no row of the table. -/
theorem test_lines_need_not_be_the_pattern :
    (nextOf (exec (.setDir 5#32) ((idleWith 0b01111#5 2#32).setMode .m16))).map (fun t => (t.lines, t.currentStepMode))
      = some (0b00111#5, .m16) ∧ Config.modeTable .m16 = 0b1111#4 := by decide

/-! ## Hazards (R170 to R177) -/

theorem test_hazards :
    hazards (idleWith 0b00100#5 0#32) .stepOnce = [.zeroDelay, .lostRisingEdge] ∧
    hazards (idleWith 0b00000#5 3#32) (.setMode 16#32) = [.modeRisingEdge, .dirOverwritten] ∧
    hazards (idleWith 0b01000#5 3#32) (.setMode 128#32) = [.doubtfulPattern] := by decide

theorem test_hazard_of_setSpeed :
    hazards State.reset (.setSpeed 60#32) = [.otherSpeed] ∧ hazards State.reset (.setSpeed 300001#32) = [.otherSpeed] ∧
    hazards State.reset (.setSpeed 0#32) = [] ∧ delayForSpeed 200#32 .m1 60#32 = 2500 := by decide

/-- R169: the order a host has to keep; without the chip's own reset, and with the direction before the mode, it may not. -/
theorem test_host_record :
    (((HostRecord.fresh.chipReset State.reset).after State.reset (.setMode 16#32)).after State.reset (.setDir 1#32)).mayStep State.reset
      = true ∧
    ((HostRecord.fresh.after State.reset (.setMode 16#32)).after State.reset (.setDir 1#32)).mayStep State.reset = false ∧
    (((HostRecord.fresh.chipReset State.reset).after State.reset (.setDir 1#32)).after State.reset (.setMode 16#32)).mayStep State.reset
      = false := by decide

/-- A SETMODE that raised STEP is recorded as a step, and the next SETMODE does not count as honoured (log entry 17). -/
theorem test_host_record_mode_raises_step :
    let r := (HostRecord.fresh.chipReset State.reset).after State.reset (.setMode 16#32)
    (r.modeChosen, r.chipReady, (r.after State.reset (.setMode 1#32)).modeChosen) = (true, false, false) := by decide

/-- A chip reset within a sequence does not make the chip ready, not even one that was (log entry 17). -/
theorem test_host_record_chip_reset_while_busy :
    ((HostRecord.fresh.chipReset State.reset).chipReset (busyWith true .phHigh 2#32 2#32)).chipReady = false := by decide

/-! ## Witnesses: for each statement with hypotheses, a case that meets them -/

/-- A state in the middle of a LOW phase meets the invariant, with a waveform still to come. -/
theorem test_witness_invariant_busy : (busyWith false .phLow 2#32 1#32).Inv where
  idle_iff := by decide
  hold_lt := by decide
  hold_idle := by decide
  high_level := by decide
  low_level := by decide
  spr_nonzero := by decide
  no_enable := fun _ => by decide
  response_idle := by decide
  response_data := .inl (by decide)

/-- At the boundary of its phase: the timer at `eff - 1`, the most pulses there can be. -/
theorem test_witness_invariant_longest :
    (((idleWith 0b01111#5 0xFFFFFFFF#32).setSequencer .phHigh 0xFFFFFFFE#32 0xFFFFFFFF#32)).Inv where
  idle_iff := by decide
  hold_lt := by decide
  hold_idle := by decide
  high_level := by decide
  low_level := by decide
  spr_nonzero := by decide
  no_enable := fun _ => by decide
  response_idle := by decide
  response_data := .inl (by decide)

theorem test_witness_EveryEdgeKeepsTheInvariant :
    ∃ s t, s.Inv ∧ step s = .next t ∧ t.holdLeft = 1#32 ∧ t.seqState = .phLow :=
  ⟨_, _, test_witness_invariant_busy, rfl, by decide, by decide⟩

theorem test_witness_WiresShowTheLineRegisters : ∃ s : State, s.Inv ∧ s.lines = 0b01111#5 :=
  ⟨_, test_witness_invariant_longest, by decide⟩

theorem test_witness_EverySequenceEnds : ∃ s : State, s.Inv ∧ s.cmdReady = false := ⟨_, test_witness_invariant_longest, by decide⟩

/-- Both ways to meet the hypothesis, neither of them the other. -/
theorem test_witness_DecodeAndEncodeAgree :
    (CmdWord.op 0x7FFFFFFFF#36 ∈ [0x1#4, 0x2#4, 0x3#4, 0x4#4, 0x6#4, 0x7#4] ∧ CmdWord.arg 0x7FFFFFFFF#36 ≠ 0#32) ∧
    (CmdWord.op 0x800000000#36 ∉ [0x1#4, 0x2#4, 0x3#4, 0x4#4, 0x6#4, 0x7#4] ∧ CmdWord.arg 0x800000000#36 = 0#32) := by
  decide

theorem test_witness_CallText :
    (AsmTerm.mk .setSpeed (some 4294967295)).wellFormed = true ∧ (AsmTerm.mk .stepOnce none).wellFormed = true := by decide

/-- Each clause of the handshake. -/
theorem test_witness_StepRunsTheAcceptedCommand :
    (let s := feed [.command 0x500000000#36] State.reset
     s.sampled.rst = false ∧ s.sampled.cmdValid = true ∧ s.cmdReady = true) ∧
    (let s := feed [.reset 0xFFFFFFFF#32] State.reset; s.sampled.rst = true) ∧
    (busyWith true .phHigh 0#32 1#32).cmdReady = false ∧
    (State.reset.sampled.rst = false ∧ State.reset.sampled.cmdValid = false ∧ State.reset.cmdReady = true) := by decide

theorem test_witness_PlacedWordIsTheNextOneRun :
    State.reset.seqState = .idle ∧ decodeTableWord 40 0xFFFFFFFFF = some .reservedF := by decide

/-- `cfg_spr` at 0, at 1 and at its largest. -/
theorem test_witness_ResetEdgeSetsTheWholeState :
    [0#32, 1#32, 0xFFFFFFFF#32].map (fun c => let s := feed [.reset c] (busyWith true .phHigh 2#32 2#32)
      (s.sampled.rst, s.sampled.cfgSpr)) = [(true, 0#32), (true, 1#32), (true, 0xFFFFFFFF#32)] := by decide

/-- An edge with reset, and one without. -/
theorem test_witness_StepsPerRevolution :
    (∃ t, step (feed [.reset 48#32] State.reset) = .next t ∧ (feed [.reset 48#32] State.reset).sampled.rst = true) ∧
    (∃ t, step (busyWith true .phHigh 2#32 2#32) = .next t ∧ (busyWith true .phHigh 2#32 2#32).sampled.rst = false) :=
  ⟨⟨_, rfl, by decide⟩, ⟨_, rfl, by decide⟩⟩

/-- The step of a state to which one word is presented. -/
def afterWord (w : CmdWord) : Option State := nextOf (step (feed [.command w] State.reset))

/-- Each of the three registers is changed at some edge: SETDIR 1, SETDELAY 0, SETSPEED 60 and SETMODE 256. -/
theorem test_witness_EachDriverRegister :
    (afterWord 0x300000001#36).map (·.direction) = some true ∧
    (afterWord 0x100000000#36).map (·.stepDelayMicros) = some 0#32 ∧
    (afterWord 0x70000003C#36).map (·.stepDelayMicros) = some 5000#32 ∧
    (afterWord 0x600000100#36).map (·.currentStepMode) = some .m256 := by decide

/-- Edges that show `ERR_DIV0`, `ERR_BADOP` and `OK`: the hypotheses of the two statements about errors. -/
theorem test_witness_errors :
    [0x700000000#36, 0xF00000000#36, 0x400000000#36].map
        (fun w => (afterWord w).map (fun t => (t.rspValid, t.rspStatus)))
      = [some (true, .errDiv0), some (true, .errBadOp), some (true, .ok)] := by decide

theorem test_witness_ASequenceWritesOnlyTheStepLine :
    let s := feed [.command 0x300000000#36] (busyWith true .phHigh 0#32 2#32)
    s.busy = true ∧ s.sampled.rst = false ∧ (∃ t, step s = .next t ∧ t.seqState = .phLow) :=
  ⟨by decide, by decide, _, rfl, by decide⟩

theorem test_witness_SetModeIgnoresAnInvalidMode : validMode 257#32 = false ∧ validMode 0#32 = false := by decide

/-- The last rows of the printed lists, and the ends of the range of bits that are no mode. -/
theorem test_witness_listed :
    (256#32, true, false, true, true) ∈ printedRows ∧ 0x00010001#32 ∈ printedInvalidModes ∧
    (0xF#4, Instr.reservedF) ∈ reservedOpcodes ∧ validMode (1#32 <<< 9) = false ∧ validMode (1#32 <<< 31) = false := by
  decide

/-- From two states that differ in everything SETMODE writes. -/
theorem test_witness_SetModePatternHasNoHistory :
    validMode 256#32 = true ∧
    (∃ u v, exec (.setMode 256#32) State.reset = .next u ∧ exec (.setMode 256#32) (idleWith 0b01111#5 3#32) = .next v) ∧
    (∃ u v, exec (.setMode 64#32) State.reset = .next u ∧ exec (.setMode 256#32) State.reset = .next v) :=
  ⟨by decide, ⟨_, _, rfl, rfl⟩, ⟨_, _, rfl, rfl⟩⟩

/-- SETMODE 2 from `LINES = 00000` raises STEP, and from `LINES = 00100` does not (R175). -/
theorem test_witness_SetModeRaises :
    (∃ t, exec (.setMode 2#32) State.reset = .next t ∧ stepRises State.reset t = true) ∧
    (∃ t, exec (.setMode 2#32) (idleWith 0b00100#5 3#32) = .next t ∧ stepRises (idleWith 0b00100#5 3#32) t = false) :=
  ⟨⟨_, rfl, by decide⟩, ⟨_, rfl, by decide⟩⟩

theorem test_witness_SetSpeedStoresTheTwoStepQuotient :
    (0xFFFFFFFF#32 ≠ 0#32 ∧ State.reset.stepsPerRevolution ≠ 0#32) ∧
    (State.reset.stepsPerRevolution = 200#32 ∧ ∃ t, exec (.setSpeed 60#32) State.reset = .next t) :=
  ⟨by decide, by decide, _, rfl⟩

/-- A zero operand with a divisor that is not zero, and a zero divisor with an operand that is not. -/
theorem test_witness_SetSpeedWithAZeroDivisor :
    State.reset.stepsPerRevolution ≠ 0#32 ∧
    exec (.setSpeed 60#32) { State.reset with stepsPerRevolution := 0#32 }
      = .next { State.reset with stepsPerRevolution := 0#32, rspValid := true, rspStatus := .errDiv0, rspData := 0#32 } :=
  ⟨by decide, rfl⟩

/-- The last operand with a delay above 0, and the first with delay 0 (R106). -/
theorem test_witness_SetSpeedResultIsBounded :
    (300000#32 ≠ 0#32 ∧ 300001#32 ≠ 0#32 ∧ State.reset.stepsPerRevolution ≠ 0#32) ∧
    (∃ t, exec (.setSpeed 300000#32) State.reset = .next t ∧ t.stepDelayMicros = 1#32) ∧
    (∃ t, exec (.setSpeed 300001#32) State.reset = .next t ∧ t.stepDelayMicros = 0#32) :=
  ⟨by decide, ⟨_, rfl, by decide⟩, ⟨_, rfl, by decide⟩⟩

/-- Either step operation, STEP with its largest count. -/
theorem test_witness_StepOperationsStartASequence :
    ((Instr.stepOnce = .stepOnce ∧ 1#32 = 1#32) ∨ (Instr.stepOnce = .step 1#32 ∧ 1#32 ≠ 0#32)) ∧
    ((Instr.step 0xFFFFFFFF#32 = .stepOnce ∧ 0xFFFFFFFF#32 = 1#32) ∨
      (Instr.step 0xFFFFFFFF#32 = .step 0xFFFFFFFF#32 ∧ 0xFFFFFFFF#32 ≠ 0#32)) := by decide

/-- One state for each of the four edges of a sequence. -/
theorem test_witness_BusyEdgeMovesTheSequenceOn :
    [busyWith true .phHigh 1#32 2#32, busyWith true .phHigh 0#32 2#32, busyWith false .phLow 0#32 2#32,
      busyWith false .phLow 0#32 1#32].all (fun s => s.busy && !s.sampled.rst) = true := by decide

/-- STEP 2 presented at delay 3, with a command on the port at the two edges after it. -/
def acceptingStep : State :=
  feed [.command 0x400000002#36, .command 0x100000009#36, .command 0x300000000#36] (idleWith 0b01010#5 3#32)

/-- The hypotheses of the statements about a whole sequence, and `j` and `c` at the ends of their ranges. -/
theorem test_witness_PulseTimeline : StepAccepted acceptingStep 2#32 ∧
    3 = (eff acceptingStep.stepDelayMicros).toNat ∧ 0 < (2#32).toNat ∧ 1 < (2#32).toNat ∧ 0 < 3 ∧ 2 < 3 :=
  ⟨⟨by decide, by decide, by decide, by decide, by decide⟩, by decide⟩

/-- The statements about the duration and the wire: 12 edges, as in P1. -/
theorem test_witness_SequenceCompletes : StepAccepted acceptingStep 2#32 ∧
    12 = 2 * (2#32).toNat * (eff acceptingStep.stepDelayMicros).toNat :=
  ⟨test_witness_PulseTimeline.1, by decide⟩

/-- STEPONCE at delay 0 with STEP HIGH before: the shortest sequence, with one rising edge fewer (R173). -/
theorem test_witness_SequenceShows :
    StepAccepted (feed [.command 0x5DEADBEEF#36] (idleWith 0b00100#5 0#32)) 1#32 ∧
    2 = 2 * (1#32).toNat * (eff 0#32).toNat :=
  ⟨⟨by decide, by decide, by decide, by decide, by decide⟩, by decide⟩

/-- An operation with holds, and one without. -/
theorem test_witness_CycleLevelRefinesOperationLevel :
    (acceptingStep.seqState = .idle ∧ acceptingStep.sampled.rst = false ∧ acceptingStep.sampled.cmdValid = true ∧
      Instr.step 2#32 = decode acceptingStep.sampled.word ∧
      12 = eventCycles (events Config.hasEn (.step 2#32) acceptingStep.driver) ∧
      noReset (acceptingStep.inputs.tail.take 12) = true) ∧
    (let s := feed [.command 0x600000010#36] State.reset
     s.seqState = .idle ∧ s.sampled.rst = false ∧ s.sampled.cmdValid = true ∧ Instr.setMode 16#32 = decode s.sampled.word ∧
      0 = eventCycles (events Config.hasEn (.setMode 16#32) s.driver) ∧ noReset (s.inputs.tail.take 0) = true) :=
  ⟨⟨by decide, by decide, by decide, by decide, rfl, by decide⟩, by decide, by decide, by decide, by decide, rfl, by decide⟩

end Sys2Proof.Tests
end

section
/-! PROOFS. State: what an accepted operation and what an edge leave on the lines and in the response registers, each said
once, and the statements about the mux (R20), the response registers (R26) and the handshake (R28). -/

namespace Sys2Proof.Machine

open Sys2Proof.Claims

/-! ## Every operation and every edge answers a next state (R65, R120) -/

theorem exec_exists_next (i : Instr) (s : State) : ∃ t, exec i s = .next t := by
  cases i <;> exact ⟨_, rfl⟩

theorem step_exists_next (s : State) : ∃ t, step s = .next t := by
  unfold step
  cases s.edgeAction with
  | reset c => exact ⟨_, rfl⟩
  | tick => exact ⟨_, rfl⟩
  | quiet => exact ⟨_, rfl⟩
  | accept w => exact exec_exists_next (decode w) s.atEdge

/-! ## The lines (R20) -/

/-- The printed rows are the mode table: the row of a mode gives the level of each line its pattern drives (R81). -/
theorem printedRows_lookup_value (m : StepMode) : ∃ r, printedRows.lookup m.value = some r ∧
    ∀ (s : State) (l : Line), rowLevel s r l = (s.writePattern (Config.modeTable m)).line l := by
  simp only [State.writePattern_line]
  cases m <;> exact ⟨_, rfl, fun s l => by cases l <;> rfl⟩

/-- The printed rows are of the nine modes and of nothing else (R14, R81). -/
theorem printedRows_modes : printedRows.map Prod.fst = StepMode.all.map StepMode.value := rfl

/-- An operand that names no mode has no printed row (R80). -/
theorem printedRows_lookup_of_modeOf_eq_none {a : Word} (h : modeOf a = none) : printedRows.lookup a = none := by
  rw [modeOf_eq_none] at h
  rw [List.lookup_eq_none_iff]
  intro p hp
  have hmem : p.1 ∈ StepMode.all.map StepMode.value := printedRows_modes ▸ List.mem_map_of_mem hp
  obtain ⟨m, _, hm⟩ := List.mem_map.1 hmem
  simpa [← hm] using (h m).symm

theorem levelAfter_of_not_wellFormed (s : State) (l : Line) {i : Instr} (h : i.wellFormed = false) :
    levelAfter s l i = s.line l := by
  cases i <;> cases h <;> rfl

/-- The level of a line after an accepted operation is that of R20's row. -/
theorem exec_line {i : Instr} {s t : State} (h : exec i s = .next t) (l : Line) : t.line l = levelAfter s l i := by
  refine exec_cases (fun t => t.line l = levelAfter s l i) h
    ?setDelay ?enable ?setDir ?stepZero ?steps ?setMode ?badMode ?speedError ?setSpeed ?version ?reserved
  case setDelay => rintro a rfl; rfl
  case enable => rintro a rfl; simp [levelAfter, and_comm]
  case setDir => rintro a rfl; simp [levelAfter, isNonzero_eq]
  case stepZero => rintro rfl; simp [levelAfter]
  case steps => rintro n hn (rfl | ⟨rfl, rfl⟩) <;> simp [State.startSequence, levelAfter, hn]
  case setMode =>
    rintro a m rfl hm
    obtain rfl := (modeOf_eq_some a m).1 hm
    obtain ⟨r, hr, level⟩ := printedRows_lookup_value m
    simp [levelAfter, hr, level]
  case badMode =>
    rintro a rfl hm
    simp [levelAfter, printedRows_lookup_of_modeOf_eq_none hm]
  case speedError => rintro a rfl _; rfl
  case setSpeed => rintro a rfl _ _; rfl
  case version => rintro rfl; rfl
  case reserved => intro hw; rw [levelAfter_of_not_wellFormed s l hw, State.raise_line]

/-- The level of a line after an edge of a running sequence is that of the step operations' row. -/
theorem seqTick_line (s : State) (l : Line) : s.seqTick.line l = levelAfterTick s l := by
  refine seqTick_cases (fun t => t.line l = levelAfterTick s l) s ?hold ?low ?high ?finish
  case hold => intro hh; simp [levelAfterTick, hh, State.line]
  case low => intro hh hq; simp [levelAfterTick, hh, hq]
  case high => intro hh hq hn; simp [levelAfterTick, hh, hq, hn]
  case finish => intro hh hq hn; simp [levelAfterTick, hh, hq, hn]

theorem levelAfter_atEdge (s : State) (l : Line) (i : Instr) : levelAfter s.atEdge l i = levelAfter s l i := rfl

theorem resetEdge_line (s : State) (c : Word) (l : Line) : (s.resetEdge c).line l = false := by
  simp [State.line, State.resetEdge, State.resetWith, Config.resetLines]

/-- The level of a line after an edge is that of R20, whatever the kind of edge. -/
theorem step_line {s t : State} (h : step s = .next t) (l : Line) : t.line l = muxLevel s l := by
  refine step_cases (fun t => t.line l = muxLevel s l) h ?reset ?tick ?quiet ?accept
  case reset => intro hr; simp only [muxLevel, s.edgeAction_reset hr, resetEdge_line]
  case tick => intro hr hq; simp only [muxLevel, s.edgeAction_tick hr hq, seqTick_line]; rfl
  case quiet => intro hr hq hv; simp only [muxLevel, s.edgeAction_quiet hr hq hv, State.atEdge_line]
  case accept =>
    intro hr hq hv he
    simp only [muxLevel, s.edgeAction_accept hr hq hv, exec_line he, levelAfter_atEdge]

/-- Settles O13: each edge answers a next state, and what an operation, a tick or reset leaves on a line is R20's level. -/
theorem eachLineIsWrittenOnlyByItsWriters : Obligations.EachLineIsWrittenOnlyByItsWriters := by
  intro s
  obtain ⟨t, ht⟩ := step_exists_next s
  exact ⟨t, ht, step_line ht⟩

/-! ## The response registers (R26) -/

/-- The three response registers together (R26). -/
def State.response (s : State) : Bool × Status × Word := (s.rspValid, s.rspStatus, s.rspData)

@[simp] theorem State.respond_response (s : State) (st : Status) (d : Word) :
    (s.respond st d).response = (true, st, d) := rfl
@[simp] theorem State.raise_response (s : State) (e : OpError) : (s.raise e).response = (true, e.status, 0#32) := rfl
@[simp] theorem State.openPhase_response (s : State) (v : Bool) (q : SeqState) (n : Word) :
    (s.openPhase v q n).response = (false, s.rspStatus, s.rspData) := rfl
@[simp] theorem State.finishSequence_response (s : State) : s.finishSequence.response = (true, .ok, 0#32) := rfl

theorem responseAfter_of_not_wellFormed (s : State) {i : Instr} (h : i.wellFormed = false) :
    responseAfter s i = (true, .errBadOp, 0#32) := by
  cases i <;> cases h <;> rfl

/-- An accepted operation leaves the response of R70, or, where it starts a sequence, none. -/
theorem exec_response {i : Instr} {s t : State} (h : exec i s = .next t) : t.response = responseAfter s i := by
  refine exec_cases (fun t => t.response = responseAfter s i) h
    ?setDelay ?enable ?setDir ?stepZero ?steps ?setMode ?badMode ?speedError ?setSpeed ?version ?reserved
  case setDelay => rintro a rfl; rfl
  case enable => rintro a rfl; rfl
  case setDir => rintro a rfl; rfl
  case stepZero => rintro rfl; rfl
  case steps => rintro n hn (rfl | ⟨rfl, rfl⟩) <;> simp [State.startSequence, responseAfter, hn]
  case setMode => rintro a m rfl _; rfl
  case badMode => rintro a rfl _; rfl
  case speedError => rintro a rfl h0; simp [responseAfter, h0, OpError.status]
  case setSpeed => rintro a rfl h1 h2; simp [responseAfter, h1, h2]
  case version => rintro rfl; rfl
  case reserved => intro hw; rw [responseAfter_of_not_wellFormed s hw]; rfl

theorem SeqState.eq_phLow {q : SeqState} (hi : q ≠ .idle) (hh : q ≠ .phHigh) : q = .phLow := by
  cases q with
  | idle => exact absurd rfl hi
  | phHigh => exact absurd rfl hh
  | phLow => rfl

/-- An edge of a running sequence shows a response exactly where the last LOW phase ends. -/
theorem seqTick_response (s : State) (hq : s.seqState ≠ .idle) : s.seqTick.response =
    if s.holdLeft = 0#32 ∧ s.seqState = .phLow ∧ s.stepsLeft = 1#32 then (true, .ok, 0#32)
    else (false, s.rspStatus, s.rspData) := by
  refine seqTick_cases (fun t => t.response = _) s ?hold ?low ?high ?finish
  case hold => intro hh; simp [hh, State.response]
  case low => intro _ hp; simp [hp]
  case high => intro _ _ hn; simp [hn]
  case finish => intro hh hp hn; simp [hh, SeqState.eq_phLow hq hp, hn]

theorem responseAfter_atEdge (s : State) (i : Instr) : responseAfter s.atEdge i = responseAfter s i := rfl

/-- The response registers after an edge are those of R26, whatever the kind of edge. -/
theorem step_response {s t : State} (h : step s = .next t) : t.response = responseRegisters s := by
  refine step_cases (fun t => t.response = responseRegisters s) h ?reset ?tick ?quiet ?accept
  case reset => intro hr; simp only [responseRegisters, s.edgeAction_reset hr]; rfl
  case tick => intro hr hq; simp only [responseRegisters, s.edgeAction_tick hr hq]; exact seqTick_response s.atEdge hq
  case quiet => intro hr hq hv; simp only [responseRegisters, s.edgeAction_quiet hr hq hv]; rfl
  case accept =>
    intro hr hq hv he
    simp only [responseRegisters, s.edgeAction_accept hr hq hv, exec_response he, responseAfter_atEdge]

/-- Settles O14: each edge answers a next state, and an operation responds where it completes and only there. -/
theorem responseRegistersFollowCompletions : Obligations.ResponseRegistersFollowCompletions := by
  intro s
  obtain ⟨t, ht⟩ := step_exists_next s
  exact ⟨t, ht, step_response ht⟩

/-! ## The handshake (R28) -/

theorem State.cmdReady_eq_true_iff (s : State) : s.cmdReady = true ↔ s.seqState = .idle := by
  simp [State.cmdReady]

theorem State.cmdReady_eq_false_iff (s : State) : s.cmdReady = false ↔ s.seqState ≠ .idle := by
  simp [State.cmdReady]

/-- The state with other contents of the command port at the next edge, `rst` and `cfg_spr` as they were. -/
def State.withCommandPort (v : Bool) (op : BitVec 4) (arg : Word) (s : State) : State :=
  { s with inputs := { s.sampled with cmdValid := v, cmdOp := op, cmdArg := arg } :: s.inputs.tail }

/-- An edge that accepts nothing because of reset or a running sequence does not look at the command port. -/
theorem step_withCommandPort (s : State) (h : s.sampled.rst = true ∨ s.cmdReady = false) (v : Bool) (op : BitVec 4)
    (arg : Word) : step (s.withCommandPort v op arg) = step s := by
  cases hr : s.sampled.rst with
  | true => rw [step_of_reset s hr, step_of_reset (s.withCommandPort v op arg) hr]; rfl
  | false =>
    have hq : s.seqState ≠ .idle := s.cmdReady_eq_false_iff.1 (h.resolve_left (by simp [hr]))
    rw [step_of_busy s hr hq, step_of_busy (s.withCommandPort v op arg) hr hq]
    rfl

/-- Settles O6: the accepting edge is `exec`, a reset or busy edge ignores the port, a quiet edge drops `rsp_valid`. -/
theorem stepRunsTheAcceptedCommand : Obligations.StepRunsTheAcceptedCommand := by
  refine fun s => ⟨fun hr hv hc => ?accept, fun h v op arg => ?ignored, fun hr hv hc => ?quiet⟩
  case accept => exact step_of_accept s hr (s.cmdReady_eq_true_iff.1 hc) hv
  case ignored => exact (step_withCommandPort s h v op arg).symm
  case quiet => exact step_of_quiet s hr (s.cmdReady_eq_true_iff.1 hc) hv

end Sys2Proof.Machine
end

section
/-! PROOFS. ModeEncoder: which operands name a mode (R80), what SETMODE does with one that does and with one that does not, and
the statements about the nine modes (R80), the printed patterns (R82) and the invalid arguments (R83). -/

namespace Sys2Proof.Machine

open Sys2Proof.Claims

/-! ## The valid modes (R80) -/

/-- An operand is a valid mode exactly when it is the value of one. -/
theorem validMode_iff (a : Word) : validMode a = true ↔ ∃ m : StepMode, m.value = a := by
  simp only [validMode, Option.isSome_iff_exists, modeOf_eq_some]

theorem validMode_eq_false_iff (a : Word) : validMode a = false ↔ modeOf a = none := by
  simp [validMode]

theorem validMode_iff_mem_values (a : Word) : validMode a = true ↔ a ∈ StepMode.all.map StepMode.value := by
  simp only [validMode_iff, List.mem_map, StepMode.mem_all, true_and]

/-- The values of the modes are the lowest nine bits, each alone. -/
theorem StepMode.values_eq_single_bits : StepMode.all.map StepMode.value = (List.range 9).map (1#32 <<< ·) := by decide

theorem validMode_iff_single_bit (a : Word) : validMode a = true ↔ ∃ k ≤ 8, a = 1#32 <<< k := by
  rw [validMode_iff_mem_values, StepMode.values_eq_single_bits]
  simp only [List.mem_map, List.mem_range, Nat.lt_succ_iff, eq_comm (a := a)]

theorem single_bit_toNat {k : Nat} (h : k < 32) : (1#32 <<< k).toNat = 2 ^ k := by
  rw [BitVec.toNat_shiftLeft, BitVec.toNat_ofNat, Nat.one_mod, Nat.one_shiftLeft]
  exact Nat.mod_eq_of_lt (Nat.pow_lt_pow_right Nat.one_lt_two h)

/-- Different bits of a word are different words. -/
theorem single_bit_inj {j k : Nat} (hj : j < 32) (hk : k < 32) (h : 1#32 <<< j = 1#32 <<< k) : j = k := by
  have h2 := congrArg BitVec.toNat h
  rw [single_bit_toNat hj, single_bit_toNat hk] at h2
  exact Nat.pow_right_injective le_rfl h2

/-- A single bit above bit 8 is no mode: it would be one of the bits 0 to 8. -/
theorem validMode_high_bit {k : Nat} (h9 : 9 ≤ k) (h31 : k ≤ 31) : validMode (1#32 <<< k) = false := by
  rw [Bool.eq_false_iff]
  intro hv
  obtain ⟨j, hj, e⟩ := (validMode_iff_single_bit _).1 hv
  have := single_bit_inj (by omega) (by omega) e
  omega

/-- Settles O22: the printed values are those of the modes, which are the single bits 0 to 8. -/
theorem validModesAreExactlyTheNine : Obligations.ValidModesAreExactlyTheNine :=
  fun a => ⟨validMode_iff_mem_values a, validMode_iff_single_bit a, by decide, fun _ => validMode_high_bit⟩

/-! ## What SETMODE does (R82, R83) -/

/-- SETMODE with the value of a mode drives the pattern of that mode and records it (R82). -/
theorem exec_setMode_value (m : StepMode) (s : State) :
    exec (.setMode m.value) s = .next (((s.writePattern (Config.modeTable m)).setMode m).respond .ok 0#32) := by
  simp only [exec, execSetMode, modeOf_value]

/-- SETMODE with an operand that names no mode only responds (R83). -/
theorem exec_setMode_of_modeOf_eq_none {a : Word} (h : modeOf a = none) (s : State) :
    exec (.setMode a) s = .next (s.respond .ok 0#32) := by
  simp only [exec, execSetMode, h]

/-- Opcode 6 is SETMODE with the operand field as its mode (R63, R71). -/
theorem decode_setMode (a : Word) : decode (CmdWord.ofFields 0x6#4 a) = .setMode a := by
  simp only [decode, CmdWord.op_ofFields, CmdWord.arg_ofFields, decodeFields]

/-- No mode has two printed rows (R81). -/
theorem printedRows_lookup_of_mem : ∀ r ∈ printedRows, printedRows.lookup r.1 = some r.2 := by decide

/-- A printed row is the row of a mode, and gives the level of each line the pattern of that mode drives (R81). -/
theorem exists_mode_of_mem_printedRows {r : Word × Bool × Bool × Bool × Bool} (hr : r ∈ printedRows) :
    ∃ m : StepMode, m.value = r.1 ∧
      ∀ (s : State) (l : Line), (s.writePattern (Config.modeTable m)).line l = rowLevel s r.2 l := by
  have hmem : r.1 ∈ StepMode.all.map StepMode.value := printedRows_modes ▸ List.mem_map_of_mem hr
  obtain ⟨m, _, hm⟩ := List.mem_map.1 hmem
  obtain ⟨q, hq, level⟩ := printedRows_lookup_value m
  rw [hm, printedRows_lookup_of_mem r hr] at hq
  cases hq
  exact ⟨m, hm, fun s l => (level s l).symm⟩

/-- Settles O23: a printed row is that of a mode, whose pattern SETMODE drives. -/
theorem setModeDrivesThePrintedPattern : Obligations.SetModeDrivesThePrintedPattern := by
  intro r hr s
  obtain ⟨m, hm, level⟩ := exists_mode_of_mem_printedRows hr
  refine ⟨(validMode_iff _).2 ⟨m, hm⟩, decode_setMode r.1, _, hm ▸ exec_setMode_value m s, ?_⟩
  simp only [State.respond_line, State.setMode_line, level]
  exact ⟨rfl, rfl, rfl, rfl, rfl, hm, rfl⟩

/-- No argument R83 lists is the value of a mode. -/
theorem validMode_of_mem_printedInvalidModes : ∀ a ∈ printedInvalidModes, validMode a = false := by
  simp only [← Bool.not_eq_true, validMode_iff_mem_values]
  simp [printedInvalidModes, StepMode.all, StepMode.value]

/-- Settles O24: SETMODE with an operand that names no mode only responds. -/
theorem setModeIgnoresAnInvalidMode : Obligations.SetModeIgnoresAnInvalidMode :=
  ⟨fun a s h => exec_setMode_of_modeOf_eq_none ((validMode_eq_false_iff a).1 h) s,
    validMode_of_mem_printedInvalidModes⟩

end Sys2Proof.Machine
end

section
/-! PROOFS. DirectLines: what SETDIR and ENABLE do to the whole state, and the statements about the two (R90, R93, R94). The
levels they leave on the lines are those of `exec_line` and `State.enableLine_line`. -/

namespace Sys2Proof.Machine

open Sys2Proof.Claims

/-- A command word decodes by the two fields it was made of (R60, R63). -/
theorem decode_ofFields (op : BitVec 4) (a : Word) : decode (CmdWord.ofFields op a) = decodeFields op a := by
  rw [decode, CmdWord.op_ofFields, CmdWord.arg_ofFields]

/-- All that SETDIR does: the DIR line, the flag and the response (R90). -/
theorem exec_setDir (a : Word) (s : State) : exec (.setDir a) s = .next { s with
    lines := (s.lineWrite .dir (!isNonzero a)).lines, direction := decide (a ≠ 0#32),
    rspValid := true, rspStatus := .ok, rspData := 0#32 } := by
  rw [← isNonzero_eq]
  rfl

/-- Settles O27: the level of DIR is that of R20's row for SETDIR, and beside the lines SETDIR writes only the flag and the
response. -/
theorem setDirDrivesTheInvertedLevel : Obligations.SetDirDrivesTheInvertedLevel :=
  fun a s => ⟨decode_ofFields 0x3#4 a, _, exec_setDir a s, exec_line (exec_setDir a s), rfl⟩

/-- The write of the enable line changes the line registers at most, with or without the line (R93, R94). -/
theorem State.enableLine_eq_setLines (s : State) (hasEn : Bool) (a : Word) :
    s.enableLine hasEn a = s.setLines (s.enableLine hasEn a).lines := by
  cases hasEn with
  | false => rfl
  | true => rfl

/-- All that ENABLE does: the write of the enable line and the response (R93, R94). -/
theorem exec_enable (a : Word) (s : State) : exec (.enable a) s = .next { s with
    lines := (s.enableLine Config.hasEn a).lines, rspValid := true, rspStatus := .ok, rspData := 0#32 } := by
  calc
    exec (.enable a) s = .next ((s.enableLine Config.hasEn a).respond .ok 0#32) := rfl
    _ = .next ((s.setLines (s.enableLine Config.hasEn a).lines).respond .ok 0#32) := by
      rw [← s.enableLine_eq_setLines]

/-- A block without the enable line shows 0 in its place on the port (R94). -/
theorem State.linesPort_false_en (s : State) : (s.linesPort false).getLsbD 4 = false :=
  writeBit_getLsbD s.lines 4 4 false (by decide) (by decide)

/-- Settles O28: `enableLine` writes EN where the line exists and nothing where it does not, and ENABLE is that write at the
block's own `HAS_EN` with the response OK. -/
theorem enableDrivesTheEnableLineWhereThereIsOne : Obligations.EnableDrivesTheEnableLineWhereThereIsOne :=
  fun a s => ⟨decode_ofFields 0x2#4 a, fun h l => s.enableLine_line h a l, exec_enable a s, s.linesPort_false_en⟩

end Sys2Proof.Machine
end

section
/-! PROOFS. Speed: what SETSPEED does to the whole state, with and without a zero divisor, and the statements about the two
cases (R102, R103). -/

namespace Sys2Proof.Machine

open Sys2Proof.Claims

/-- All that SETSPEED does where no divisor is zero: the delay and the response (R102). -/
theorem exec_setSpeed_of_ne_zero {a : Word} {s : State} (ha : a ≠ 0#32) (hs : s.stepsPerRevolution ≠ 0#32) :
    exec (.setSpeed a) s = .next { s with
      stepDelayMicros := speedDelay s.stepsPerRevolution a, rspValid := true, rspStatus := .ok, rspData := 0#32 } :=
  congrArg Host.Outcome.next (if_neg (not_or.2 ⟨ha, hs⟩))

/-- All that SETSPEED does where a divisor is zero: the response (R103). -/
theorem exec_setSpeed_of_zero_divisor {a : Word} {s : State} (h : a = 0#32 ∨ s.stepsPerRevolution = 0#32) :
    exec (.setSpeed a) s = .next { s with rspValid := true, rspStatus := .errDiv0, rspData := 0#32 } :=
  congrArg Host.Outcome.next (if_pos h)

/-- The delay is the quotient of the two divisions wherever neither divisor is zero (R102). -/
theorem stepDelayMicros_of_exec_setSpeed {a : Word} {s t : State} (ha : a ≠ 0#32) (hs : s.stepsPerRevolution ≠ 0#32)
    (h : exec (.setSpeed a) s = .next t) : t.stepDelayMicros = speedDelay s.stepsPerRevolution a := by
  rw [exec_setSpeed_of_ne_zero ha hs] at h
  cases h
  rfl

/-- The spec's worked example (R102): 200 steps per revolution at 60 revolutions per minute. -/
theorem speedDelay_200_60 : speedDelay 200#32 60#32 = 5000#32 := by decide

/-- Settles O30: the next state is that of `exec_setSpeed_of_ne_zero`, its delay over the numbers is `speedDelay_toNat`, and
the example is one value of `speedDelay`. -/
theorem setSpeedStoresTheTwoStepQuotient : Obligations.SetSpeedStoresTheTwoStepQuotient := by
  constructor
  · intro a s ha hs
    exact ⟨decode_ofFields 0x7#4 a, _, exec_setSpeed_of_ne_zero ha hs, speedDelay_toNat s.stepsPerRevolution a, rfl⟩
  · intro s t hspr h
    have hs : s.stepsPerRevolution ≠ 0#32 := by rw [hspr]; decide
    calc
      t.stepDelayMicros = speedDelay s.stepsPerRevolution 60#32 := stepDelayMicros_of_exec_setSpeed (by decide) hs h
      _ = speedDelay 200#32 60#32 := by rw [hspr]
      _ = 5000#32 := speedDelay_200_60

/-- Settles O31: either zero divisor takes the guard's branch, and `ERR_DIV0` has the code 1. -/
theorem setSpeedWithAZeroDivisorIsAnError : Obligations.SetSpeedWithAZeroDivisorIsAnError :=
  fun _ _ h => ⟨exec_setSpeed_of_zero_divisor h, rfl⟩

end Sys2Proof.Machine
end

section
/-! PROOFS. Sequence: what starts a sequence of pulses (R114, R117), the state of the block in every cycle of one (R115, R119),
and the statements about its start and its end (R114, R116, R117).

A sequence of `n` pulses has `2 * n` phases, numbered from 0, each of `D` cycles: the even ones are HIGH, the odd ones LOW, and
phases `2 * j` and `2 * j + 1` make pulse `j`. `State.inSequence s n p r` is cycle `r` of phase `p`. -/

namespace Sys2Proof.Machine

open Sys2Proof.Claims

/-! ## The accepting edge (R114, R117) -/

/-- An operation of `n` pulses, `n` not 0, starts a sequence of them (R114). -/
theorem exec_of_pulsesOf {i : Instr} {n : Word} (hp : pulsesOf i = n) (hn : n ≠ 0#32) (s : State) :
    exec i s = .next (s.startSequence n) := by
  cases i with
  | step count => subst hp; exact congrArg Host.Outcome.next (if_neg hn)
  | stepOnce => subst hp; rfl
  | _ => exact absurd hp.symm hn

/-- Settles O33: either operation is one of `n` pulses, and the start of its sequence opens a HIGH phase. -/
theorem stepOperationsStartASequence : Obligations.StepOperationsStartASequence := by
  intro i n s h
  have hi : pulsesOf i = n ∧ n ≠ 0#32 := by
    rcases h with ⟨rfl, rfl⟩ | ⟨rfl, hn⟩
    · exact ⟨rfl, by decide⟩
    · exact ⟨rfl, hn⟩
  refine ⟨s.startSequence n, exec_of_pulsesOf hi.1 hi.2 s, s.openPhase_line true .phHigh n, ?_, rfl, rfl, rfl⟩
  calc
    (eff s.stepDelayMicros - 1#32).toNat = (eff s.stepDelayMicros).toNat - 1 := eff_sub_one_toNat _
    _ = _ := by rw [eff, apply_ite BitVec.toNat]; rfl

/-- Settles O34: the guard of STEP answers a count of 0 with the response alone. -/
theorem stepOfZeroIsANoOp : Obligations.StepOfZeroIsANoOp :=
  fun _ => congrArg Host.Outcome.next (if_pos rfl)

/-! ## One edge of a sequence, branch by branch (R115) -/

theorem seqTick_of_hold {s : State} (h : s.holdLeft ≠ 0#32) :
    s.seqTick = { s with holdLeft := s.holdLeft - 1#32, rspValid := false } := if_pos h

theorem seqTick_of_high {s : State} (h : s.holdLeft = 0#32) (hq : s.seqState = .phHigh) :
    s.seqTick = s.openPhase false .phLow s.stepsLeft := by
  simp only [State.seqTick, h, hq, ne_eq, not_true_eq_false, if_true, if_false]

theorem seqTick_of_low {s : State} (h : s.holdLeft = 0#32) (hq : s.seqState = .phLow) (hn : s.stepsLeft ≠ 1#32) :
    s.seqTick = s.openPhase true .phHigh (s.stepsLeft - 1#32) := by
  simp [State.seqTick, h, hq, hn]

theorem seqTick_of_last {s : State} (h : s.holdLeft = 0#32) (hq : s.seqState = .phLow) (hn : s.stepsLeft = 1#32) :
    s.seqTick = s.finishSequence := by
  simp [State.seqTick, h, hq, hn]

/-! ## The cycles of a sequence (R119) -/

/-- The later of two writes of one line stays (R42). -/
theorem writeBit_writeBit (ls : BitVec 5) (l : Line) (v w : Bool) :
    writeBit (writeBit ls l.index v) l.index w = writeBit ls l.index w := by
  apply BitVec.eq_of_getLsbD_eq
  intro j hj
  simp only [writeBit_getLsbD _ _ _ _ l.index_lt hj]
  split <;> rfl

/-- `D`, the cycles a phase lasts (R113). -/
def State.phaseCycles (s : State) : Nat := (eff s.stepDelayMicros).toNat

theorem State.phaseCycles_pos (s : State) : 0 < s.phaseCycles := eff_pos s.stepDelayMicros

/-- What a block that was in `s` before it accepted `n` pulses is in cycle `r` of phase `p` of them. -/
def State.inSequence (s : State) (n : Word) (p r : Nat) : State := { s with
  lines := writeBit s.lines Line.step.index (p % 2 == 0)
  seqState := if p % 2 = 0 then .phHigh else .phLow
  holdLeft := eff s.stepDelayMicros - 1#32 - BitVec.ofNat 32 r
  stepsLeft := n - BitVec.ofNat 32 (p / 2)
  rspValid := false
  inputs := s.inputs.drop (1 + (p * s.phaseCycles + r)) }

/-- What it is when the last LOW phase is over (R116). -/
def State.afterSequence (s : State) (n : Word) : State := { s with
  lines := writeBit s.lines Line.step.index false
  holdLeft := 0#32
  stepsLeft := 0#32
  rspValid := true
  rspStatus := .ok
  rspData := 0#32
  inputs := s.inputs.drop (1 + 2 * n.toNat * s.phaseCycles) }

section
variable {s : State} {n : Word} {p r : Nat}

theorem State.inSequence_seqState_ne_idle : (s.inSequence n p r).seqState ≠ .idle := by
  simp only [State.inSequence]
  split <;> exact SeqState.noConfusion

theorem State.inSequence_inputs : (s.inSequence n p r).inputs =
    s.inputs.drop (1 + (p * s.phaseCycles + r)) := rfl

/-- The timer counts down from `D - 1` (R119). -/
theorem State.inSequence_holdLeft_toNat (hr : r < s.phaseCycles) :
    (s.inSequence n p r).holdLeft.toNat = s.phaseCycles - 1 - r := by
  have hlt := (eff s.stepDelayMicros).isLt
  simp only [State.phaseCycles] at hr ⊢
  rw [State.inSequence, BitVec.toNat_sub, eff_sub_one_toNat, BitVec.toNat_ofNat]
  omega

/-- The two phases of a pulse have as many pulses left as there are, less those before it (R119). -/
theorem State.inSequence_stepsLeft_toNat (hp : p < 2 * n.toNat) :
    (s.inSequence n p r).stepsLeft.toNat = n.toNat - p / 2 := by
  have hlt := n.isLt
  simp only [State.inSequence, BitVec.toNat_sub, BitVec.toNat_ofNat]
  omega

/-- The timer is at 0 in the last cycle of a phase and only there (R119). -/
theorem State.inSequence_holdLeft_eq_zero_iff (hr : r < s.phaseCycles) :
    (s.inSequence n p r).holdLeft = 0#32 ↔ r + 1 = s.phaseCycles := by
  rw [← BitVec.toNat_inj, State.inSequence_holdLeft_toNat hr, BitVec.toNat_ofNat]
  omega

/-- The last pulse has the last two phases (R119). -/
theorem State.inSequence_stepsLeft_eq_one_iff (hp : p < 2 * n.toNat) :
    (s.inSequence n p r).stepsLeft = 1#32 ↔ p / 2 + 1 = n.toNat := by
  rw [← BitVec.toNat_inj, State.inSequence_stepsLeft_toNat hp, BitVec.toNat_ofNat]
  omega

/-- The edge after a cycle moves the waveform on by one. -/
theorem State.inSequence_inputs_tail : (s.inSequence n p r).inputs.tail =
    s.inputs.drop (1 + (p * s.phaseCycles + (r + 1))) := by
  rw [State.inSequence_inputs, List.tail_drop]
  rfl

/-! ## What the edge after each cycle does -/

/-- Within a phase only the timer moves. -/
theorem State.inSequence_tick_hold (hr : r + 1 < s.phaseCycles) :
    (s.inSequence n p r).atEdge.seqTick = s.inSequence n p (r + 1) := by
  have hh : (s.inSequence n p r).holdLeft ≠ 0#32 := by
    rw [ne_eq, State.inSequence_holdLeft_eq_zero_iff (by omega)]
    omega
  have hsub : (s.inSequence n p r).holdLeft - 1#32 = (s.inSequence n p (r + 1)).holdLeft := by
    simp only [State.inSequence, BitVec.ofNat_add, sub_add_eq_sub_sub]
  calc (s.inSequence n p r).atEdge.seqTick
    _ = { s.inSequence n p r with
          holdLeft := (s.inSequence n p r).holdLeft - 1#32, inputs := (s.inSequence n p r).inputs.tail } :=
        seqTick_of_hold hh
    _ = s.inSequence n p (r + 1) := by rw [hsub, State.inSequence_inputs_tail]; rfl

/-- An edge that opens a phase after the last cycle of the phase before it begins the next phase. -/
theorem State.inSequence_openPhase {v : Bool} {q : SeqState} {m : Word} (hr : r + 1 = s.phaseCycles)
    (hv : ((p + 1) % 2 == 0) = v) (hq : (s.inSequence n (p + 1) 0).seqState = q)
    (hm : (s.inSequence n (p + 1) 0).stepsLeft = m) :
    (s.inSequence n p r).atEdge.openPhase v q m = s.inSequence n (p + 1) 0 := by
  have hlines : writeBit (s.inSequence n p r).lines Line.step.index v = (s.inSequence n (p + 1) 0).lines := by
    rw [State.inSequence, writeBit_writeBit, ← hv, State.inSequence]
  have hhold : eff s.stepDelayMicros - 1#32 = (s.inSequence n (p + 1) 0).holdLeft := (BitVec.sub_zero _).symm
  have hin : (s.inSequence n p r).inputs.tail = (s.inSequence n (p + 1) 0).inputs := by
    rw [State.inSequence_inputs_tail, State.inSequence_inputs, hr, Nat.succ_mul, Nat.add_zero]
  calc (s.inSequence n p r).atEdge.openPhase v q m
    _ = { s with
          lines := writeBit (s.inSequence n p r).lines Line.step.index v, seqState := q,
          holdLeft := eff s.stepDelayMicros - 1#32, stepsLeft := m, rspValid := false,
          inputs := (s.inSequence n p r).inputs.tail } := State.openPhase_eq _ v q m
    _ = s.inSequence n (p + 1) 0 := by rw [hlines, hhold, hin, ← hq, ← hm]; rfl

/-- A HIGH phase is followed by the LOW phase of the same pulse. -/
theorem State.inSequence_tick_high (hp : p % 2 = 0) (hr : r + 1 = s.phaseCycles) :
    (s.inSequence n p r).atEdge.seqTick = s.inSequence n (p + 1) 0 := by
  have hh : (s.inSequence n p r).holdLeft = 0#32 := (State.inSequence_holdLeft_eq_zero_iff (by omega)).2 hr
  have hodd : (p + 1) % 2 ≠ 0 := by omega
  have hpulse : (p + 1) / 2 = p / 2 := by omega
  calc (s.inSequence n p r).atEdge.seqTick
    _ = (s.inSequence n p r).atEdge.openPhase false .phLow (s.inSequence n p r).stepsLeft :=
        seqTick_of_high hh (if_pos hp)
    _ = s.inSequence n (p + 1) 0 :=
        State.inSequence_openPhase hr (beq_false_of_ne hodd) (if_neg hodd) (by simp only [State.inSequence, hpulse])

/-- A LOW phase is followed by the HIGH phase of the next pulse, if there is one. -/
theorem State.inSequence_tick_low (hp : p % 2 = 1) (hlast : p + 1 < 2 * n.toNat)
    (hr : r + 1 = s.phaseCycles) :
    (s.inSequence n p r).atEdge.seqTick = s.inSequence n (p + 1) 0 := by
  have hh : (s.inSequence n p r).holdLeft = 0#32 := (State.inSequence_holdLeft_eq_zero_iff (by omega)).2 hr
  have hn : (s.inSequence n p r).stepsLeft ≠ 1#32 := by
    rw [ne_eq, State.inSequence_stepsLeft_eq_one_iff (by omega)]
    omega
  have heven : (p + 1) % 2 = 0 := by omega
  have hpulse : (p + 1) / 2 = p / 2 + 1 := by omega
  have hlow : (s.inSequence n p r).seqState = .phLow := if_neg (by omega)
  calc (s.inSequence n p r).atEdge.seqTick
    _ = (s.inSequence n p r).atEdge.openPhase true .phHigh ((s.inSequence n p r).stepsLeft - 1#32) :=
        seqTick_of_low hh hlow hn
    _ = s.inSequence n (p + 1) 0 :=
        State.inSequence_openPhase hr (beq_iff_eq.2 heven) (if_pos heven)
          (by simp only [State.inSequence, hpulse, BitVec.ofNat_add, sub_add_eq_sub_sub])

/-- The last cycle of every phase but the last is followed by the first of the next. -/
theorem State.inSequence_tick_phaseEnd (hp : p + 1 < 2 * n.toNat) (hr : r + 1 = s.phaseCycles) :
    (s.inSequence n p r).atEdge.seqTick = s.inSequence n (p + 1) 0 := by
  rcases Nat.mod_two_eq_zero_or_one p with heven | hodd
  · exact State.inSequence_tick_high heven hr
  · exact State.inSequence_tick_low hodd hp hr

/-- The last LOW phase is followed by the end of the sequence. -/
theorem State.inSequence_tick_last (hidle : s.seqState = .idle) (hp : p + 1 = 2 * n.toNat)
    (hr : r + 1 = s.phaseCycles) :
    (s.inSequence n p r).atEdge.seqTick = s.afterSequence n := by
  have hh : (s.inSequence n p r).holdLeft = 0#32 := (State.inSequence_holdLeft_eq_zero_iff (by omega)).2 hr
  have hn : (s.inSequence n p r).stepsLeft = 1#32 := (State.inSequence_stepsLeft_eq_one_iff (by omega)).2 (by omega)
  have hodd : p % 2 ≠ 0 := by omega
  have hlines : (s.inSequence n p r).lines = writeBit s.lines Line.step.index false := by
    rw [State.inSequence, beq_false_of_ne hodd]
  have hin : (s.inSequence n p r).inputs.tail = (s.afterSequence n).inputs := by
    rw [State.inSequence_inputs_tail, hr, ← Nat.succ_mul, Nat.succ_eq_add_one, hp, State.afterSequence]
  calc (s.inSequence n p r).atEdge.seqTick
    _ = (s.inSequence n p r).atEdge.finishSequence := seqTick_of_last hh (if_neg hodd) hn
    _ = { s with
          lines := (s.inSequence n p r).lines, seqState := .idle, holdLeft := (s.inSequence n p r).holdLeft,
          stepsLeft := 0#32, rspValid := true, rspStatus := .ok, rspData := 0#32,
          inputs := (s.inSequence n p r).inputs.tail } := rfl
    _ = s.afterSequence n := by rw [hlines, hh, hin, ← hidle]; rfl

/-! ## The run of an accepted sequence (R119) -/

/-- Cycle `r` of phase `p` lies within the `2 * n * D` cycles of the sequence. -/
theorem cycle_lt {D N : Nat} (hp : p < N) (hr : r < D) : p * D + r < N * D :=
  calc
    p * D + r < p * D + D := Nat.add_lt_add_left hr _
    _ = (p + 1) * D := (Nat.succ_mul p D).symm
    _ ≤ N * D := Nat.mul_le_mul_right D hp

/-- A waveform without reset shows none at any of its edges, nor when it has run out (log entry 3). -/
theorem rst_headD_drop {ps : List PortInput} {k c : Nat} (h : noReset (ps.take k) = true) (hc : c < k) :
    ((ps.drop c).headD PortInput.quiet).rst = false := by
  rw [List.headD_eq_head?_getD, List.head?_drop]
  cases hg : ps[c]? with
  | none => rfl
  | some q =>
    have hmem : q ∈ ps.take k := List.mem_of_getElem? (by rw [List.getElem?_take_of_lt hc, hg])
    simpa using List.all_eq_true.1 h q hmem

/-- No cycle of an accepted sequence sees reset at the edge that ends it. -/
theorem sampled_rst_inSequence (h : StepAccepted s n) (hp : p < 2 * n.toNat) (hr : r < s.phaseCycles) :
    (s.inSequence n p r).sampled.rst = false := by
  have hin : (s.inSequence n p r).inputs = s.inputs.tail.drop (p * s.phaseCycles + r) := by
    rw [State.inSequence_inputs, List.drop_tail, Nat.add_comm]
  rw [State.sampled, hin]
  exact rst_headD_drop h.no_reset (cycle_lt hp hr)

/-- The edge after a cycle of an accepted sequence is one of the sequence (R115). -/
theorem step_inSequence (h : StepAccepted s n) (hp : p < 2 * n.toNat) (hr : r < s.phaseCycles) :
    step (s.inSequence n p r) = .next (s.inSequence n p r).atEdge.seqTick :=
  step_of_busy _ (sampled_rst_inSequence h hp hr) State.inSequence_seqState_ne_idle

theorem State.startSequence_atEdge : s.atEdge.startSequence n = s.inSequence n 0 0 := by
  simp [State.startSequence, State.openPhase_eq, State.inSequence, State.atEdge, Line.index, State.noResponse,
    State.dropInput]

/-- The accepting edge begins phase 0 (R114). -/
theorem step_of_stepAccepted (h : StepAccepted s n) : step s = .next (s.inSequence n 0 0) := by
  obtain ⟨hrst, hvalid⟩ := h.presented
  rw [step_of_accept s hrst h.idle hvalid, exec_of_pulsesOf h.pulses h.some_pulse, State.startSequence_atEdge]

/-- A run of one edge more. -/
theorem runEdges_add_one {k : Nat} {s t u : State} (ht : runEdges k s = .next t) (hu : step t = .next u) :
    runEdges (k + 1) s = .next u := by
  rw [runEdges_add k 1 ht, runEdges_succ 0 hu, runEdges_zero]

/-- From its first cycle a phase reaches each of its cycles. -/
theorem runEdges_withinPhase (h : StepAccepted s n) (hp : p < 2 * n.toNat) (hr : r < s.phaseCycles) :
    runEdges r (s.inSequence n p 0) = .next (s.inSequence n p r) := by
  induction r with
  | zero => rfl
  | succ r ih =>
    have hlt : r < s.phaseCycles := Nat.lt_of_succ_lt hr
    exact runEdges_add_one (ih hlt) (by rw [step_inSequence h hp hlt, State.inSequence_tick_hold hr])

/-- Each phase begins `D` cycles after the one before it. -/
theorem runEdges_phaseStart (h : StepAccepted s n) (hp : p < 2 * n.toNat) :
    runEdges (1 + p * s.phaseCycles) s = .next (s.inSequence n p 0) := by
  obtain ⟨r, hr⟩ : ∃ r, r + 1 = s.phaseCycles := Nat.exists_add_one_eq.2 s.phaseCycles_pos
  induction p with
  | zero => rw [Nat.zero_mul, runEdges_succ 0 (step_of_stepAccepted h), runEdges_zero]
  | succ p ih =>
    have hp' : p < 2 * n.toNat := Nat.lt_of_succ_lt hp
    have hlast : r < s.phaseCycles := by omega
    have hrun : runEdges (1 + p * s.phaseCycles + r) s = .next (s.inSequence n p r) := by
      rw [runEdges_add _ r (ih hp'), runEdges_withinPhase h hp' hlast]
    rw [Nat.succ_mul, ← hr, ← Nat.add_assoc, ← Nat.add_assoc, hr]
    exact runEdges_add_one hrun (by rw [step_inSequence h hp' hlast, State.inSequence_tick_phaseEnd hp hr])

/-- After the accepting edge, every cycle of every phase is reached at its time. -/
theorem runEdges_inSequence (h : StepAccepted s n) (hp : p < 2 * n.toNat) (hr : r < s.phaseCycles) :
    runEdges (1 + (p * s.phaseCycles + r)) s = .next (s.inSequence n p r) := by
  rw [← Nat.add_assoc, runEdges_add _ r (runEdges_phaseStart h hp), runEdges_withinPhase h hp hr]

/-- The edge after the last cycle ends the sequence (R116). -/
theorem runEdges_afterSequence (h : StepAccepted s n) :
    runEdges (1 + 2 * n.toNat * s.phaseCycles) s = .next (s.afterSequence n) := by
  obtain ⟨r, hr⟩ : ∃ r, r + 1 = s.phaseCycles := Nat.exists_add_one_eq.2 s.phaseCycles_pos
  have hn : 0 < n.toNat := Nat.pos_of_ne_zero fun h0 => h.some_pulse (BitVec.eq_of_toNat_eq h0)
  obtain ⟨p, hp⟩ : ∃ p, p + 1 = 2 * n.toNat := Nat.exists_add_one_eq.2 (by omega)
  have hp' : p < 2 * n.toNat := by omega
  have hr' : r < s.phaseCycles := by omega
  have hstep : step (s.inSequence n p r) = .next (s.afterSequence n) := by
    rw [step_inSequence h hp' hr', State.inSequence_tick_last h.idle hp hr]
  have hrun := runEdges_add_one (runEdges_inSequence h hp' hr') hstep
  rwa [Nat.add_assoc, Nat.add_assoc, hr, ← Nat.succ_mul, Nat.succ_eq_add_one, hp] at hrun

end

/-! ## The end of the sequence (R116) -/

/-- The lines after a sequence are those before it, but STEP is LOW. -/
theorem State.afterSequence_line (s : State) (n : Word) (l : Line) :
    (s.afterSequence n).line l = if l = .step then false else s.line l := s.lineWrite_line .step l false

/-- An idle block to which nothing is presented shows no response after the edge (R26). -/
theorem rspValid_of_step_idle {s t : State} (hq : s.seqState = .idle) (hv : s.sampled.cmdValid = false)
    (h : step s = .next t) : t.rspValid = false := by
  refine step_cases (fun t => t.rspValid = false) h ?reset ?tick ?quiet ?accept
  case reset => intro _; rfl
  case tick => intro _ hbusy; exact absurd hq hbusy
  case quiet => intro _ _ _; rfl
  case accept => intro _ _ hvalid _; rw [hv] at hvalid; cases hvalid

/-- Settles O38: cycle `c` of the sequence is cycle `c % D` of phase `c / D`, in which the block is busy, and the sequence ends
after the last of them. -/
theorem sequenceCompletesAfterItsExactDuration : Obligations.SequenceCompletesAfterItsExactDuration := by
  rintro s n T h rfl
  refine ⟨fun c hc => ?busy, s.afterSequence n, runEdges_afterSequence h, s.afterSequence_line n, rfl, ?ready, ?next⟩
  case busy =>
    have hp : c / s.phaseCycles < 2 * n.toNat := Nat.div_lt_of_lt_mul (by rwa [Nat.mul_comm])
    have hrun := runEdges_inSequence h hp (Nat.mod_lt c (s.phaseCycles_pos))
    rw [Nat.div_add_mod'] at hrun
    exact ⟨_, hrun, bne_iff_ne.2 State.inSequence_seqState_ne_idle, rfl⟩
  case ready => exact (State.cmdReady_eq_true_iff _).2 h.idle
  case next => exact fun hv _ hu => rspValid_of_step_idle (s := s.afterSequence n) h.idle hv hu

end Sys2Proof.Machine
end

section
/-! PROOFS. System: what VERSION and the reserved opcodes do to the whole state, and the statements about the two (R130, R131).
A reserved opcode is one whose operation is not well formed (R64). -/

namespace Sys2Proof.Machine

open Sys2Proof.Claims

/-- All that VERSION does: the response, with the revision of the interface as its data (R130). -/
theorem exec_version (s : State) : exec .version s = .next { s with
    rspValid := true, rspStatus := .ok, rspData := Config.versionId } := rfl

/-- Settles O42: opcode 8 is VERSION whatever stands below it, and VERSION only responds. -/
theorem versionAnswersTheVersionId : Obligations.VersionAnswersTheVersionId :=
  fun a s => ⟨decode_ofFields 0x8#4 a, exec_version s⟩

/-- A reserved operation raises `ERR_BADOP` in every state and does nothing else (R131). -/
theorem exec_of_not_wellFormed {i : Instr} (h : i.wellFormed = false) (s : State) :
    exec i s = .next (s.raise .badOp) := by
  cases i <;> cases h <;> rfl

/-- The operations listed beside the reserved opcodes are reserved ones (R64). -/
theorem not_wellFormed_of_mem_reservedOpcodes : ∀ r ∈ reservedOpcodes, r.2.wellFormed = false := by decide

/-- A reserved opcode selects its listed operation whatever stands in the operand field (R64, R71). -/
theorem decodeFields_of_mem_reservedOpcodes (a : Word) : ∀ r ∈ reservedOpcodes, decodeFields r.1 a = r.2 := by
  simp only [reservedOpcodes, List.forall_mem_cons]
  exact ⟨rfl, rfl, rfl, rfl, rfl, rfl, rfl, rfl, List.forall_mem_nil _⟩

/-- Settles O43: a reserved opcode decodes to an operation that is not well formed, which only raises the error, and
`ERR_BADOP` has the code 2. -/
theorem reservedOpcodesAnswerBadOp : Obligations.ReservedOpcodesAnswerBadOp :=
  fun r hr a s => ⟨(decode_ofFields r.1 a).trans (decodeFields_of_mem_reservedOpcodes a r hr),
    exec_of_not_wellFormed (not_wellFormed_of_mem_reservedOpcodes r hr) s, rfl⟩

end Sys2Proof.Machine
end

section
/-! PROOFS. Exceptions: which accepted operations answer an error, and that no other edge shows one (R140). -/

namespace Sys2Proof.Machine

open Sys2Proof.Claims

/-- `ERR_DIV0` is the answer of SETSPEED with a zero divisor and of no other operation (R103, R141). -/
theorem responseAfter_errDiv0_iff (s : State) (i : Instr) : (∃ d, responseAfter s i = (true, .errDiv0, d)) ↔
    ∃ rpm, i = .setSpeed rpm ∧ (rpm = 0#32 ∨ s.stepsPerRevolution = 0#32) := by
  cases i with
  | setSpeed rpm => by_cases h0 : rpm = 0#32 ∨ s.stepsPerRevolution = 0#32 <;> simp [responseAfter, h0]
  | step n => by_cases hn : n = 0#32 <;> simp [responseAfter, hn]
  | _ => simp [responseAfter]

/-- `ERR_BADOP` is the answer of every reserved opcode and of none of the eight operations (R131, R142). -/
theorem responseAfter_errBadOp_iff (s : State) (i : Instr) :
    (∃ d, responseAfter s i = (true, .errBadOp, d)) ↔ i.wellFormed = false := by
  cases i with
  | setSpeed rpm =>
    by_cases h0 : rpm = 0#32 ∨ s.stepsPerRevolution = 0#32 <;> simp [responseAfter, Instr.wellFormed, h0]
  | step n => by_cases hn : n = 0#32 <;> simp [responseAfter, Instr.wellFormed, hn]
  | _ => simp [responseAfter, Instr.wellFormed]

/-- An edge shows an error exactly where it accepts an operation that answers it: a reset or quiet edge shows no response, and
the end of a sequence is answered `OK` (R116, R140). -/
theorem responseRegisters_error_iff (s : State) {st : Status} (hst : st ≠ .ok) :
    (∃ d, responseRegisters s = (true, st, d)) ↔
      ∃ w, s.edgeAction = .accept w ∧ ∃ d, responseAfter s (decode w) = (true, st, d) := by
  unfold responseRegisters
  cases s.edgeAction with
  | reset c => simp
  | tick => dsimp only; split <;> simp [hst.symm]
  | quiet => simp
  | accept w => simp

/-- A response that is shown has the status `st` exactly where R26 says that one with it is. -/
theorem rspStatus_eq_iff_responseRegisters {s t : State} (h : step s = .next t) (hv : t.rspValid = true) (st : Status) :
    t.rspStatus = st ↔ ∃ d, responseRegisters s = (true, st, d) := by
  simp [← step_response h, State.response, hv]

/-- Settles O16: an error that is shown is the answer of the operation accepted at that edge, and the answers are those of
`responseAfter_errDiv0_iff` and `responseAfter_errBadOp_iff`. -/
theorem onlyZeroDivisorsAndReservedOpcodesAreErrors : Obligations.OnlyZeroDivisorsAndReservedOpcodesAreErrors := by
  intro s t h hv
  have error_iff {st : Status} (hst : st ≠ .ok) := (rspStatus_eq_iff_responseRegisters h hv st).trans
    (responseRegisters_error_iff s hst)
  constructor
  · simp only [error_iff (st := .errDiv0) (by decide), responseAfter_errDiv0_iff, exists_and_left]
  · simp only [error_iff (st := .errBadOp) (by decide), responseAfter_errBadOp_iff]

end Sys2Proof.Machine
end

section
/-! PROOFS. Reset: all that an edge with `rst` 1 leaves (R160, R162 to R164), and where `stepsPerRevolution` comes from (R165). -/

namespace Sys2Proof.Machine

/-! ## `stepsPerRevolution` has no writer but reset (R165) -/

@[simp] theorem State.atEdge_stepsPerRevolution (s : State) :
    s.atEdge.stepsPerRevolution = s.stepsPerRevolution := rfl
@[simp] theorem State.enableLine_stepsPerRevolution (s : State) (hasEn : Bool) (on : Word) :
    (s.enableLine hasEn on).stepsPerRevolution = s.stepsPerRevolution := by
  cases hasEn <;> rfl

/-- No operation writes `stepsPerRevolution`. -/
theorem exec_stepsPerRevolution {i : Instr} {s t : State} (h : exec i s = .next t) :
    t.stepsPerRevolution = s.stepsPerRevolution := by
  refine exec_cases (fun t => t.stepsPerRevolution = s.stepsPerRevolution) h
    ?setDelay ?enable ?setDir ?stepZero ?steps ?setMode ?badMode ?speedError ?setSpeed ?version ?reserved
  case enable => intro a _; rw [State.respond_stepsPerRevolution, State.enableLine_stepsPerRevolution]
  all_goals intros; rfl

/-- No edge of a running sequence writes it. -/
@[simp] theorem seqTick_stepsPerRevolution (s : State) : s.seqTick.stepsPerRevolution = s.stepsPerRevolution := by
  refine seqTick_cases (fun t => t.stepsPerRevolution = s.stepsPerRevolution) s ?hold ?low ?high ?finish
  all_goals intros; rfl

/-- An edge without reset keeps it, whatever the kind of edge. -/
theorem stepsPerRevolution_of_step {s t : State} (h : step s = .next t) (hr : s.sampled.rst = false) :
    t.stepsPerRevolution = s.stepsPerRevolution := by
  refine step_cases (fun t => t.stepsPerRevolution = s.stepsPerRevolution) h ?reset ?tick ?quiet ?accept
  case reset => intro hr'; rw [hr] at hr'; cases hr'
  case tick => intro _ _; rw [seqTick_stepsPerRevolution, State.atEdge_stepsPerRevolution]
  case quiet => intro _ _ _; rfl
  case accept => intro _ _ _ he; rw [exec_stepsPerRevolution he, State.atEdge_stepsPerRevolution]

/-! ## `cfg_spr` is read by reset alone (R165) -/

/-- The state with another `cfg_spr` at the next edge, `rst` and the command port as they were. -/
def State.withCfgSpr (c : Word) (s : State) : State :=
  { s with inputs := { s.sampled with cfgSpr := c } :: s.inputs.tail }

/-- None of the three kinds of edge without reset looks at `cfg_spr`. -/
theorem step_withCfgSpr (s : State) (hr : s.sampled.rst = false) (c : Word) : step (s.withCfgSpr c) = step s := by
  rcases s.edgeAction_cases with ⟨hrst, _⟩ | ⟨_, hq, _⟩ | ⟨_, hq, hv, _⟩ | ⟨_, hq, hv, _⟩
  · rw [hr] at hrst; cases hrst
  · rw [step_of_busy s hr hq, step_of_busy (s.withCfgSpr c) hr hq]; rfl
  · rw [step_of_accept s hr hq hv, step_of_accept (s.withCfgSpr c) hr hq hv]; rfl
  · rw [step_of_quiet s hr hq hv, step_of_quiet (s.withCfgSpr c) hr hq hv]; rfl

/-- Settles O10: a reset edge leaves the reset state of its `cfg_spr`, and no other writes the register or reads `cfg_spr`. -/
theorem stepsPerRevolutionIsLoadedOnlyByReset : Obligations.StepsPerRevolutionIsLoadedOnlyByReset := by
  refine fun s t h => ⟨fun hr => ?loaded, fun hr => ⟨stepsPerRevolution_of_step h hr, fun c => ?ignored⟩⟩
  case loaded => rw [step_of_reset s hr] at h; cases h; rfl
  case ignored => exact (step_withCfgSpr s hr c).trans h

/-! ## The whole state after a reset edge (R160, R162 to R164) -/

/-- Settles O9: each field of the reset state with the `cfg_spr` of that edge has its printed value. -/
theorem resetEdgeSetsTheWholeState : Obligations.ResetEdgeSetsTheWholeState := by
  intro s hr
  refine ⟨s.dropInput.resetEdge s.sampled.cfgSpr, step_of_reset s hr, ?_⟩
  exact ⟨rfl, rfl, rfl, rfl, rfl, rfl, rfl, rfl, rfl, rfl, rfl, rfl, rfl, rfl⟩

end Sys2Proof.Machine
end

section
/-! PROOFS. Encoding: how the two fields of a word and the operation it decodes to determine each other, the statements about
decoder, encoder and opcode table (R62, R64, R71, R72), and the word the host places. -/

namespace Sys2Proof.Machine

open Sys2Proof.Claims

/-! ## Decoder and encoder (R71) -/

theorem decodeFields_opcode_operand (i : Instr) : decodeFields i.opcode i.operand = i := by cases i <;> rfl

theorem decode_encode (i : Instr) : decode (encode i) = i := by
  rw [encode, decode_ofFields, decodeFields_opcode_operand]

/-- The operation an opcode selects has that opcode, and a name in which the operand field has no part (R63, R64). -/
theorem decodeFields_opcode_and_mnemonic (op : BitVec 4) (a : Word) :
    (decodeFields op a).opcode = op ∧ (decodeFields op a).mnemonic = (decodeFields op 0#32).mnemonic := by
  rcases opcode_cases op with rfl | rfl | rfl | rfl | rfl | rfl | rfl | rfl | rfl | rfl | rfl | rfl | rfl | rfl | rfl | rfl
  all_goals exact ⟨rfl, rfl⟩

theorem opcode_decodeFields (op : BitVec 4) (a : Word) : (decodeFields op a).opcode = op :=
  (decodeFields_opcode_and_mnemonic op a).1

theorem mnemonic_decodeFields (op : BitVec 4) (a : Word) :
    (decodeFields op a).mnemonic = (decodeFields op 0#32).mnemonic :=
  (decodeFields_opcode_and_mnemonic op a).2

/-- The six opcodes whose operations take the operand field take it whole (R62). -/
theorem operand_decodeFields {op : BitVec 4} (h : op ∈ [0x1#4, 0x2#4, 0x3#4, 0x4#4, 0x6#4, 0x7#4]) (a : Word) :
    (decodeFields op a).operand = a := by
  simp only [List.mem_cons, List.not_mem_nil, or_false] at h
  rcases h with rfl | rfl | rfl | rfl | rfl | rfl <;> rfl

theorem operand_decodeFields_zero (op : BitVec 4) : (decodeFields op 0#32).operand = 0#32 := by
  revert op
  decide

/-- Settles O2: the opcode of an operation is that of its word, and so is the operand where the field is not ignored. -/
theorem decodeAndEncodeAgree : Obligations.DecodeAndEncodeAgree := by
  refine ⟨decode_encode, fun w h => ?_⟩
  have hoperand : (decode w).operand = w.arg := by
    rcases h with hop | harg
    · exact operand_decodeFields hop w.arg
    · rw [decode, harg, operand_decodeFields_zero]
  rw [encode, decode, opcode_decodeFields, ← decode, hoperand, CmdWord.ofFields_op_arg]

/-! ## The opcode table (R63, R64) -/

/-- The mask of the table keeps the opcode field. -/
theorem ofFields_and_opcodeMask (op : BitVec 4) (a : Word) :
    CmdWord.ofFields op a &&& 0xF00000000#36 = CmdWord.ofFields op 0#32 := by
  have hmask : 0xF00000000#36 = 0xF#4 ++ 0#32 := by decide
  have hop : op &&& 0xF#4 = op := BitVec.and_allOnes
  rw [hmask, CmdWord.ofFields, BitVec.and_append, hop, BitVec.and_zero, CmdWord.ofFields]

theorem opcodeTable_mask : ∀ r ∈ opcodeTable, r.mask = 0xF00000000#36 := by decide

/-- Which row a word is of depends on its opcode alone. -/
theorem covers_of_mem_opcodeTable {r : OpcodeRow} (hr : r ∈ opcodeTable) (w : CmdWord) :
    r.covers w = (CmdWord.ofFields w.op 0#32 == r.value) := by
  rw [OpcodeRow.covers, opcodeTable_mask r hr, ← ofFields_and_opcodeMask w.op w.arg, CmdWord.ofFields_op_arg]

/-- One row has the opcode, and it is printed beside the operation of that opcode. -/
theorem mnemonics_of_opcode : ∀ op : BitVec 4,
    (opcodeTable.filter (CmdWord.ofFields op 0#32 == ·.value)).map (·.mnemonic) = [(decodeFields op 0#32).mnemonic] := by
  decide

/-- Settles O3: the rows that cover a word are those of its opcode, of which there is one. -/
theorem everyWordIsOfExactlyOneTableRow : Obligations.EveryWordIsOfExactlyOneTableRow := by
  intro w
  have hrows := mnemonics_of_opcode w.op
  rw [← List.filter_congr fun r hr => covers_of_mem_opcodeTable hr w, List.map_eq_singleton_iff] at hrows
  obtain ⟨r, hfilter, hname⟩ := hrows
  exact ⟨r, hfilter, hname.trans (mnemonic_decodeFields w.op w.arg).symm⟩

/-! ## Words and operand fields (R62, R64, R72) -/

/-- Settles O4: each opcode is one arm of the decoder. -/
theorem operandFieldIsTakenWholeOrIgnored : Obligations.OperandFieldIsTakenWholeOrIgnored := by
  intro a
  simp only [decode_ofFields]
  exact ⟨rfl, rfl, rfl, rfl, rfl, rfl, rfl, rfl, decodeFields_of_mem_reservedOpcodes a⟩

/-- Settles O1: the decoder evaluated at each printed word. -/
theorem exampleWordsDecodeAsPrinted : Obligations.ExampleWordsDecodeAsPrinted := by
  unfold Obligations.ExampleWordsDecodeAsPrinted
  decide

/-! ## The word the host places (log entries 3 and 5) -/

/-- A word that stands on the port of an idle block is accepted at the next edge (R28). -/
theorem step_present {s : State} (h : s.seqState = .idle) (w : CmdWord) :
    step (s.present w) = exec (decode w) s.atEdge := by
  have hw : (s.present w).sampled.word = w := PortInput.command_word w
  rw [step_of_accept (s.present w) rfl h rfl, hw]
  rfl

theorem withFetchWord_of_idle {s : State} (h : s.seqState = .idle) (nbits w : Nat) :
    s.withFetchWord nbits w = s.present (BitVec.ofNat 36 (w % 2 ^ nbits)) := by
  rw [State.withFetchWord, if_pos h]

/-- What a table word decodes to is what its low 36 bits decode to (R60). -/
theorem decode_of_decodeTableWord {nbits w : Nat} {i : Instr} (h : decodeTableWord nbits w = some i) :
    decode (BitVec.ofNat 36 (w % 2 ^ nbits)) = i := by
  unfold decodeTableWord tableWord at h
  split at h
  · exact Option.some.inj h
  · cases h

/-- Settles O7: in an idle block the placed word stands on the port, where the next edge accepts it. -/
theorem placedWordIsTheNextOneRun : Obligations.PlacedWordIsTheNextOneRun := by
  intro s nbits w i hidle hi
  rw [withFetchWord_of_idle hidle, step_present hidle, decode_of_decodeTableWord hi]
  rfl

end Sys2Proof.Machine
end

section
/-! PROOFS. Text: the reader of a line takes each of its forms apart where the printer put it together (R67), and the statement
that both printed texts are read back. -/

namespace Sys2Proof.Machine

open Sys2Proof.Claims

/-! ## Numbers -/

theorem isDigit_iff (c : Char) : c.isDigit = true ↔ '0' ≤ c ∧ c ≤ '9' := by
  simp [Char.isDigit, Char.le_def]

theorem digitValue_of_isDigit {c : Char} (h : c.isDigit = true) : digitValue c = some (c.toNat - '0'.toNat) := by
  rw [digitValue, if_pos ((isDigit_iff c).1 h)]

theorem digit_lt_ten {c : Char} (h : c.isDigit = true) : c.toNat - '0'.toNat < 10 := by
  have hle : c.toNat ≤ '9'.toNat := ((isDigit_iff c).1 h).2
  have h9 : '9'.toNat = 57 := rfl
  have h0 : '0'.toNat = 48 := rfl
  omega

/-- Decimal digits are read as the library reads them. -/
theorem readDigits_ten (cs : List Char) (acc : Nat) (h : ∀ c ∈ cs, c.isDigit = true) :
    readDigits 10 acc cs = some (Nat.ofDigitChars 10 cs acc) := by
  induction cs generalizing acc with
  | nil => rfl
  | cons c cs ih =>
    have hc := h c List.mem_cons_self
    simp only [readDigits, digitValue_of_isDigit hc, digit_lt_ten hc, if_true]
    rw [ih _ fun d hd => h d (List.mem_cons_of_mem c hd), Nat.ofDigitChars_cons, Nat.mul_comm]

/-- Digits alone are a decimal number: there is no `x` among them. -/
theorem readNumber_of_isDigit {cs : List Char} (hne : cs ≠ []) (h : ∀ c ∈ cs, c.isDigit = true) :
    readNumber cs = some (Nat.ofDigitChars 10 cs 0) := by
  have hx : 'x' ∉ cs := fun hmem => absurd (h 'x' hmem) (by decide)
  rw [← readDigits_ten cs 0 h]
  unfold readNumber
  split
  · simp at hx
  · rfl
  · exact absurd rfl hne

theorem isDigit_of_mem_decimal {n : Nat} {c : Char} (h : c ∈ Nat.toDigits 10 n) : c.isDigit = true :=
  Nat.isDigit_of_mem_toDigits (by decide) (by decide) h

/-- A character that is no digit stands in no decimal number. -/
theorem not_mem_decimal {c : Char} (h : c.isDigit = false) (n : Nat) : c ∉ Nat.toDigits 10 n :=
  fun hmem => absurd (isDigit_of_mem_decimal hmem) (by simp [h])

theorem readNumber_decimal (n : Nat) : readNumber (Nat.toDigits 10 n) = some n := by
  rw [readNumber_of_isDigit Nat.toDigits_ne_nil fun c hc => isDigit_of_mem_decimal hc, Nat.ofDigitChars_ten_toDigits]

/-! ## Operands as they are printed -/

/-- An operand in decimal, nothing where there is none. -/
def decimalOperand (o : Option Nat) : List Char := (o.map (Nat.toDigits 10)).getD []

theorem readOperand_of_ne_nil {cs : List Char} (h : cs ≠ []) : readOperand cs = (readNumber cs).map some := by
  cases cs with
  | nil => exact absurd rfl h
  | cons c cs => rfl

theorem readOperand_decimalOperand (o : Option Nat) : readOperand (decimalOperand o) = some o := by
  cases o with
  | none => rfl
  | some n =>
    calc
      readOperand (Nat.toDigits 10 n) = (readNumber (Nat.toDigits 10 n)).map some :=
        readOperand_of_ne_nil Nat.toDigits_ne_nil
      _ = some (some n) := by rw [readNumber_decimal]; rfl

theorem not_mem_decimalOperand {c : Char} (h : c.isDigit = false) (o : Option Nat) : c ∉ decimalOperand o := by
  cases o with
  | none => exact List.not_mem_nil
  | some n => exact not_mem_decimal h n

/-! ## The parts of a line -/

theorem splitFirst_append {c : Char} {xs : List Char} (h : c ∉ xs) (ys : List Char) :
    splitFirst c (xs ++ c :: ys) = some (xs, ys) := by
  induction xs with
  | nil => simp [splitFirst]
  | cons x xs ih =>
    rw [List.mem_cons, not_or] at h
    obtain ⟨hx, hxs⟩ := h
    rw [List.cons_append, splitFirst, if_neg (Ne.symm hx), ih hxs]
    rfl

theorem splitFirst_eq_none {c : Char} {xs : List Char} (h : c ∉ xs) : splitFirst c xs = none := by
  induction xs with
  | nil => rfl
  | cons x xs ih =>
    rw [List.mem_cons, not_or] at h
    obtain ⟨hx, hxs⟩ := h
    rw [splitFirst, if_neg (Ne.symm hx), ih hxs]
    rfl

/-- The separators of a line that stand in no name. -/
def separators : List Char := ['(', ')', ' ', '=']

theorem isDigit_of_mem_separators : ∀ c ∈ separators, c.isDigit = false := by simp [separators]

theorem not_mem_callName (n : OpName) : ∀ c ∈ separators, c ∉ n.callName := by
  cases n <;> simp [separators, OpName.callName]

theorem not_mem_mnemonicName (n : OpName) : ∀ c ∈ separators, c ∉ n.mnemonicName := by
  cases n <;> simp [separators, OpName.mnemonicName]

theorem ofCall_callName (n : OpName) : OpName.ofCall n.callName = some n := by cases n <;> rfl

theorem ofMnemonic_mnemonicName (n : OpName) : OpName.ofMnemonic n.mnemonicName = some n := by cases n <;> rfl

/-! ## The two forms -/

theorem callText_eq (t : AsmTerm) : t.callText = t.name.callName ++ '(' :: (decimalOperand t.operand ++ [')']) := rfl

/-- The method-call form is taken apart at its parentheses. -/
theorem readCall_callText (t : AsmTerm) : readCall t.callText = some t := by
  have hname : splitFirst '(' t.callText = some (t.name.callName, decimalOperand t.operand ++ [')']) :=
    splitFirst_append (not_mem_callName t.name '(' (by decide)) _
  have hnum : splitFirst ')' (decimalOperand t.operand ++ [')']) = some (decimalOperand t.operand, []) :=
    splitFirst_append (not_mem_decimalOperand (by decide) t.operand) []
  simp only [readCall, hname, hnum, ofCall_callName, readOperand_decimalOperand, Option.bind_some, Option.map_some]

/-- The only separator in the mnemonic form is its blank. -/
theorem not_mem_mnemonicText (t : AsmTerm) {c : Char} (hc : c ∈ separators) (hblank : c ≠ ' ') : c ∉ t.mnemonicText := by
  obtain ⟨name, operand⟩ := t
  have hname := not_mem_mnemonicName name c hc
  cases operand with
  | none => simpa [AsmTerm.mnemonicText] using hname
  | some n => simp [AsmTerm.mnemonicText, hname, hblank, not_mem_decimal (isDigit_of_mem_separators c hc) n]

/-- The mnemonic form has no parenthesis, so it is no method call. -/
theorem readCall_mnemonicText (t : AsmTerm) : readCall t.mnemonicText = none := by
  rw [readCall, splitFirst_eq_none (not_mem_mnemonicText t (by decide) (by decide))]

/-- The mnemonic form is taken apart at its blank. -/
theorem readMnemonic_mnemonicText (t : AsmTerm) : readMnemonic t.mnemonicText = some t := by
  obtain ⟨name, operand⟩ := t
  have hblank := not_mem_mnemonicName name ' ' (by decide)
  cases operand with
  | none =>
    have htext : (AsmTerm.mk name none).mnemonicText = name.mnemonicName := List.append_nil _
    rw [htext, readMnemonic, splitFirst_eq_none hblank]
    simp only [ofMnemonic_mnemonicName, Option.map_some]
  | some n =>
    have hsplit : splitFirst ' ' (AsmTerm.mk name (some n)).mnemonicText = some (name.mnemonicName, Nat.toDigits 10 n) :=
      splitFirst_append hblank _
    rw [readMnemonic, hsplit]
    simp only [ofMnemonic_mnemonicName, readNumber_decimal, Option.bind_some, Option.map_some]

/-! ## The line -/

/-- A line without `=` is no reset: it is an operation in one of the two forms. -/
theorem readLine_of_not_reset {line : List Char} (h : '=' ∉ line) :
    readLine line = (((readCall line).or (readMnemonic line)).bind AsmTerm.assemble).map .command := by
  simp only [readLine, splitFirst_eq_none h]

theorem readLine_callText (t : AsmTerm) : readLine t.callText = t.assemble.map .command := by
  have h : '=' ∉ t.callText := by
    rw [callText_eq]
    simp [not_mem_callName t.name '=' (by decide), not_mem_decimalOperand (c := '=') (by decide) t.operand]
  rw [readLine_of_not_reset h, readCall_callText]
  rfl

theorem readLine_mnemonicText (t : AsmTerm) : readLine t.mnemonicText = t.assemble.map .command := by
  have h : '=' ∉ t.mnemonicText := not_mem_mnemonicText t (by decide) (by decide)
  rw [readLine_of_not_reset h, readCall_mnemonicText, readMnemonic_mnemonicText]
  rfl

/-! ## The word of a term -/

/-- The word of an operation by name has the printed opcode above the operand, if the operand is 0 where there is none. -/
theorem encode_instr {n : OpName} {a : Word} (h : n.takesOperand = false → a = 0#32) :
    encode (n.instr a) = CmdWord.ofFields (printedOpcode n) a := by
  cases n with
  | stepOnce => rw [h rfl]; rfl
  | version => rw [h rfl]; rfl
  | _ => rfl

/-- In a well-formed term the operand fits 32 bits, and is there only where the operation has one. -/
theorem operand_of_wellFormed {t : AsmTerm} (h : t.wellFormed = true) :
    t.operand.getD 0 < 2 ^ 32 ∧ (t.name.takesOperand = false → t.operand.getD 0 = 0) := by
  obtain ⟨name, operand⟩ := t
  cases operand with
  | none => exact ⟨Nat.two_pow_pos 32, fun _ => rfl⟩
  | some n =>
    simp only [AsmTerm.wellFormed, Bool.and_eq_true, decide_eq_true_eq] at h
    refine ⟨h.2, fun hno => ?_⟩
    rw [h.1] at hno
    cases hno

theorem assemble_of_wellFormed {t : AsmTerm} (h : t.wellFormed = true) :
    t.assemble = some (CmdWord.ofFields (printedOpcode t.name) (BitVec.ofNat 32 (t.operand.getD 0))) := by
  have hnone := (operand_of_wellFormed h).2
  rw [AsmTerm.assemble, AsmTerm.toInstr, if_pos h, Option.map_some, encode_instr fun hno => by rw [hnone hno]]

theorem callName_eq_printedCall (n : OpName) : n.callName = printedCall n := by cases n <;> rfl

theorem mnemonicName_eq_printedMnemonic (n : OpName) : n.mnemonicName = printedMnemonic n := by cases n <;> rfl

/-- Settles O5: a line in either form reads back as the term it was printed from, whose word is the table's. -/
theorem callTextReadsBackAsItsWord : Obligations.CallTextReadsBackAsItsWord := by
  intro t h
  have hw := assemble_of_wellFormed h
  refine ⟨_, hw, rfl, ?operand, ?callText, ?readCall, ?mnemonicText, ?readMnemonic⟩
  case operand => rw [CmdWord.arg_ofFields, BitVec.toNat_ofNat, Nat.mod_eq_of_lt (operand_of_wellFormed h).1]
  case callText => rw [AsmTerm.callText, callName_eq_printedCall]
  case readCall => rw [readLine_callText, hw]; rfl
  case mnemonicText => rw [AsmTerm.mnemonicText, mnemonicName_eq_printedMnemonic]
  case readMnemonic => rw [readLine_mnemonicText, hw]; rfl

end Sys2Proof.Machine
end

section
/-! PROOFS. Invariant: that the reset states meet `State.Inv` and every edge keeps it, and what follows from it: the wires show
the line registers (R21), and every sequence ends (R120).

The fields of `State.Inv` about the sequencer are shown together, as `State.SequencerInv`; each of the others follows from what
an edge does to the one register it is about. -/

namespace Sys2Proof.Machine

open Sys2Proof.Claims

/-- Settles O8: each operation, and each kind of edge, gives its next state. -/
theorem everyOperationAndEveryEdgeAnswersANextState : Obligations.EveryOperationAndEveryEdgeAnswersANextState :=
  ⟨exec_exists_next, step_exists_next⟩

/-! ## The sequencer's part of the invariant -/

/-- What `State.Inv` says of the sequencer registers, with STEP and `rsp_valid`. -/
structure State.SequencerInv (s : State) : Prop where
  idle_iff : s.seqState = .idle ↔ s.stepsLeft = 0#32
  hold_lt : s.holdLeft.toNat < s.phaseCycles
  hold_idle : s.seqState = .idle → s.holdLeft = 0#32
  high_level : s.seqState = .phHigh → s.line .step = true
  low_level : s.seqState = .phLow → s.line .step = false
  response_idle : s.rspValid = true → s.seqState = .idle

theorem inv_iff (s : State) : s.Inv ↔ s.SequencerInv ∧ s.stepsPerRevolution ≠ 0#32 ∧
    (Config.hasEn = false → s.line .en = false) ∧
    (s.rspData = 0#32 ∨ s.rspStatus = .ok ∧ s.rspData = Config.versionId) :=
  ⟨fun h => ⟨⟨h.idle_iff, h.hold_lt, h.hold_idle, h.high_level, h.low_level, h.response_idle⟩,
      h.spr_nonzero, h.no_enable, h.response_data⟩,
    fun ⟨q, spr, en, data⟩ => ⟨q.idle_iff, q.hold_lt, q.hold_idle, q.high_level, q.low_level, spr, en,
      q.response_idle, data⟩⟩

/-- No sequence is in progress: no pulse is left and the timer rests at 0 (R25, R36). -/
structure State.AtRest (s : State) : Prop where
  idle : s.seqState = .idle
  timer : s.holdLeft = 0#32
  pulses : s.stepsLeft = 0#32

theorem State.SequencerInv.atRest {s : State} (h : s.SequencerInv) (hq : s.seqState = .idle) : s.AtRest :=
  ⟨hq, h.hold_idle hq, h.idle_iff.1 hq⟩

/-- Whatever the lines, the delay and the response, a block at rest meets the sequencer's part of the invariant. -/
theorem State.AtRest.sequencerInv {s : State} (h : s.AtRest) : s.SequencerInv where
  idle_iff := iff_of_true h.idle h.pulses
  hold_lt := by rw [h.timer]; exact s.phaseCycles_pos
  hold_idle _ := h.timer
  high_level hq := by rw [h.idle] at hq; cases hq
  low_level hq := by rw [h.idle] at hq; cases hq
  response_idle _ := h.idle

/-- The start of a phase with pulses left meets it, where the level of STEP is that of the phase (R114, R115). -/
theorem sequencerInv_openPhase (s : State) {n : Word} (hn : n ≠ 0#32) :
    (s.openPhase true .phHigh n).SequencerInv ∧ (s.openPhase false .phLow n).SequencerInv := by
  have hlt : (eff s.stepDelayMicros - 1#32).toNat < s.phaseCycles := by
    have hpos := s.phaseCycles_pos
    rw [eff_sub_one_toNat]
    exact Nat.sub_lt hpos Nat.one_pos
  constructor
  · exact ⟨⟨nofun, fun h => absurd h hn⟩, hlt, nofun, fun _ => s.openPhase_line true .phHigh n .step, nofun, nofun⟩
  · exact ⟨⟨nofun, fun h => absurd h hn⟩, hlt, nofun, nofun, fun _ => s.openPhase_line false .phLow n .step, nofun⟩

/-- An edge within a phase keeps it: only the timer moves, and no response is shown. -/
theorem sequencerInv_hold {s : State} (h : s.SequencerInv) (hq : s.seqState ≠ .idle) (hh : s.holdLeft ≠ 0#32) :
    { s with holdLeft := s.holdLeft - 1#32, rspValid := false }.SequencerInv where
  idle_iff := h.idle_iff
  hold_lt := by
    have hlt := h.hold_lt
    rw [sub_one_toNat hh]
    exact Nat.lt_of_le_of_lt (Nat.sub_le _ _) hlt
  hold_idle hidle := absurd hidle hq
  high_level := h.high_level
  low_level := h.low_level
  response_idle := nofun

/-- Every edge of a running sequence keeps it. -/
theorem sequencerInv_seqTick {s : State} (h : s.SequencerInv) (hq : s.seqState ≠ .idle) : s.seqTick.SequencerInv := by
  have hn : s.stepsLeft ≠ 0#32 := fun h0 => hq (h.idle_iff.2 h0)
  refine seqTick_cases (fun t => t.SequencerInv) s ?hold ?low ?high ?finish
  case hold => exact sequencerInv_hold h hq
  case low => exact fun _ _ => (sequencerInv_openPhase s hn).2
  case high => exact fun _ _ h1 => (sequencerInv_openPhase s fun h0 => h1 (by simpa using sub_eq_zero.1 h0)).1
  case finish => exact fun hh _ _ => State.AtRest.sequencerInv ⟨rfl, hh, rfl⟩

/-- An accepted operation starts a sequence or leaves the sequencer registers alone (R114, R124). -/
theorem exec_sequencer {i : Instr} {s t : State} (h : exec i s = .next t) :
    (t.seqState = s.seqState ∧ t.holdLeft = s.holdLeft ∧ t.stepsLeft = s.stepsLeft) ∨
    ∃ n, n ≠ 0#32 ∧ t = s.startSequence n := by
  refine exec_cases (fun t => (t.seqState = s.seqState ∧ t.holdLeft = s.holdLeft ∧ t.stepsLeft = s.stepsLeft) ∨
    ∃ n, n ≠ 0#32 ∧ t = s.startSequence n) h
    ?setDelay ?enable ?setDir ?stepZero ?steps ?setMode ?badMode ?speedError ?setSpeed ?version ?reserved
  case steps => exact fun n hn _ => .inr ⟨n, hn, rfl⟩
  case enable => intro a _; rw [s.enableLine_eq_setLines]; exact .inl ⟨rfl, rfl, rfl⟩
  all_goals intros; exact .inl ⟨rfl, rfl, rfl⟩

theorem sequencerInv_exec {i : Instr} {s t : State} (h : s.AtRest) (he : exec i s = .next t) : t.SequencerInv := by
  rcases exec_sequencer he with ⟨hq, hh, hn⟩ | ⟨n, hn, rfl⟩
  · exact State.AtRest.sequencerInv ⟨hq.trans h.idle, hh.trans h.timer, hn.trans h.pulses⟩
  · exact (sequencerInv_openPhase s hn).1

theorem atRest_resetWith (c : Word) : (State.resetWith c).AtRest := ⟨rfl, rfl, rfl⟩

/-- The default of an edge (R121) keeps it: it shows no response, and moves the waveform on. -/
theorem State.SequencerInv.atEdge {s : State} (h : s.SequencerInv) : s.atEdge.SequencerInv :=
  ⟨h.idle_iff, h.hold_lt, h.hold_idle, h.high_level, h.low_level, nofun⟩

theorem sequencerInv_step {s t : State} (h : s.SequencerInv) (ht : step s = .next t) : t.SequencerInv := by
  refine step_cases (fun t => t.SequencerInv) ht ?reset ?tick ?quiet ?accept
  case reset => exact fun _ => State.AtRest.sequencerInv ⟨rfl, rfl, rfl⟩
  case tick => exact fun _ hq => sequencerInv_seqTick h.atEdge hq
  case quiet => exact fun _ _ _ => h.atEdge
  case accept => exact fun _ hq _ he => sequencerInv_exec (h.atEdge.atRest hq) he

/-! ## The other registers of the invariant -/

/-- Reset loads `stepsPerRevolution` with a nonzero value, whatever `cfg_spr` (R165). -/
theorem resetWith_stepsPerRevolution_ne_zero (c : Word) : (State.resetWith c).stepsPerRevolution ≠ 0#32 := by
  rw [State.resetWith]
  split
  · decide
  · assumption

theorem stepsPerRevolution_ne_zero_of_step {s t : State} (h : s.stepsPerRevolution ≠ 0#32) (ht : step s = .next t) :
    t.stepsPerRevolution ≠ 0#32 := by
  cases hr : s.sampled.rst with
  | true =>
    rw [step_of_reset s hr] at ht
    cases ht
    exact resetWith_stepsPerRevolution_ne_zero s.sampled.cfgSpr
  | false => rwa [stepsPerRevolution_of_step ht hr]

/-- In a block without an enable line no operation writes `LINES[4]` (R93, R94). -/
theorem levelAfter_en (s : State) (i : Instr) (hen : Config.hasEn = false) : levelAfter s .en i = s.line .en := by
  cases i with
  | setMode m => cases hl : printedRows.lookup m <;> simp [levelAfter, hl, rowLevel]
  | _ => simp [levelAfter, hen]

theorem line_en_of_step {s t : State} (hen : Config.hasEn = false) (h : s.line .en = false) (ht : step s = .next t) :
    t.line .en = false := by
  rw [step_line ht, muxLevel]
  cases s.edgeAction with
  | reset c => rfl
  | tick => simpa [levelAfterTick] using h
  | quiet => exact h
  | accept w => exact (levelAfter_en s (decode w) hen).trans h

/-- The response data an operation leaves: 0, or `VERSION_ID` beside `OK`, or what was there (R26). -/
theorem responseAfter_data (s : State) (i : Instr) :
    (responseAfter s i).2.2 = 0#32 ∨ (responseAfter s i).2 = (.ok, Config.versionId) ∨
    (responseAfter s i).2 = (s.rspStatus, s.rspData) := by
  cases i with
  | step n => by_cases hn : n = 0#32 <;> simp [responseAfter, hn]
  | _ => simp [responseAfter]

theorem responseRegisters_data (s : State) :
    (responseRegisters s).2.2 = 0#32 ∨ (responseRegisters s).2 = (.ok, Config.versionId) ∨
    (responseRegisters s).2 = (s.rspStatus, s.rspData) := by
  unfold responseRegisters
  cases s.edgeAction with
  | reset c => exact .inl rfl
  | tick => dsimp only; split <;> simp
  | quiet => exact .inr (.inr rfl)
  | accept w => exact responseAfter_data s (decode w)

theorem response_data_of_step {s t : State} (h : s.rspData = 0#32 ∨ s.rspStatus = .ok ∧ s.rspData = Config.versionId)
    (ht : step s = .next t) : t.rspData = 0#32 ∨ t.rspStatus = .ok ∧ t.rspData = Config.versionId := by
  have hdata := responseRegisters_data s
  rw [← step_response ht] at hdata
  simp only [State.response, Prod.mk.injEq] at hdata
  rcases hdata with h0 | hversion | ⟨hstatus, hkept⟩
  · exact .inl h0
  · exact .inr hversion
  · rwa [hstatus, hkept]

/-! ## The invariant -/

/-- Settles O12: the sequencer's part by the kind of edge and its branch, each of the other registers by its writers. -/
theorem everyEdgeKeepsTheInvariant : Obligations.EveryEdgeKeepsTheInvariant := by
  intro s t h ht
  obtain ⟨hseq, hspr, hen, hdata⟩ := (inv_iff s).1 h
  exact (inv_iff t).2 ⟨sequencerInv_step hseq ht, stepsPerRevolution_ne_zero_of_step hspr ht,
    fun no => line_en_of_step no (hen no) ht, response_data_of_step hdata ht⟩

theorem resetWith_inv (c : Word) : (State.resetWith c).Inv :=
  (inv_iff _).2 ⟨(atRest_resetWith c).sequencerInv, resetWith_stepsPerRevolution_ne_zero c,
    fun _ => resetEdge_line State.reset c .en, .inl rfl⟩

/-- Settles O11: a reset state is at rest, with all lines LOW and no response. -/
theorem resetStatesMeetTheInvariant : Obligations.ResetStatesMeetTheInvariant :=
  ⟨resetWith_inv 0#32, resetWith_inv⟩

/-- Settles O21: without an enable line the port shows 0 in its place, which is what the register holds. -/
theorem wiresShowTheLineRegisters : Obligations.WiresShowTheLineRegisters := by
  intro s h
  show s.linesPort Config.hasEn = s.lines
  rw [State.linesPort]
  split
  · rfl
  · next hen =>
    have hlow : s.line .en = false := h.no_enable (by simpa using hen)
    have hself := writeBit_self s.lines .en
    rwa [← State.line, hlow] at hself

/-! ## Every sequence ends (R120) -/

/-- How many phases of a running sequence come after the present one: two for each pulse, of which the present pulse has had the
HIGH phase, and the LOW phase too if it is in that. -/
def State.phasesAfter (s : State) : Nat :=
  if s.seqState = .phHigh then 2 * s.stepsLeft.toNat - 1 else 2 * s.stepsLeft.toNat - 2

/-- How many edges the block still needs to be idle, if no reset cuts the sequence short: the phases to come and the rest of the
present one. -/
def State.edgesLeft (s : State) : Nat :=
  if s.seqState = .idle then 0 else s.phasesAfter * s.phaseCycles + (s.holdLeft.toNat + 1)

theorem State.edgesLeft_of_idle {s : State} (h : s.seqState = .idle) : s.edgesLeft = 0 := if_pos h

theorem State.edgesLeft_of_busy {s : State} (h : s.seqState ≠ .idle) :
    s.edgesLeft = s.phasesAfter * s.phaseCycles + (s.holdLeft.toNat + 1) := if_neg h

theorem State.phasesAfter_of_high {s : State} (h : s.seqState = .phHigh) :
    s.phasesAfter = 2 * s.stepsLeft.toNat - 1 := if_pos h

theorem State.phasesAfter_of_not_high {s : State} (h : s.seqState ≠ .phHigh) :
    s.phasesAfter = 2 * s.stepsLeft.toNat - 2 := if_neg h

theorem toNat_pos_of_ne_zero {a : Word} (h : a ≠ 0#32) : 0 < a.toNat :=
  Nat.pos_of_ne_zero fun h0 => h (BitVec.eq_of_toNat_eq h0)

theorem State.SequencerInv.stepsLeft_pos {s : State} (h : s.SequencerInv) (hq : s.seqState ≠ .idle) :
    0 < s.stepsLeft.toNat := toNat_pos_of_ne_zero fun h0 => hq (h.idle_iff.2 h0)

/-- Within a phase the timer is one less after each edge, and nothing else that counts. -/
theorem edgesLeft_hold {s : State} (hq : s.seqState ≠ .idle) (hh : s.holdLeft ≠ 0#32) :
    { s with holdLeft := s.holdLeft - 1#32, rspValid := false }.edgesLeft + 1 = s.edgesLeft := by
  have htimer : (s.holdLeft - 1#32).toNat + 1 = s.holdLeft.toNat := by
    rw [sub_one_toNat hh, Nat.sub_add_cancel (toNat_pos_of_ne_zero hh)]
  calc
    _ = s.phasesAfter * s.phaseCycles + ((s.holdLeft - 1#32).toNat + 1) + 1 :=
      congrArg Nat.succ (if_neg hq)
    _ = s.edgesLeft := by rw [htimer, State.edgesLeft_of_busy hq, Nat.add_assoc]

/-- The last edge of a phase opens the next with its whole time before it (R113). -/
theorem edgesLeft_openPhase {s : State} {v : Bool} {q : SeqState} {n : Word} (hbusy : s.seqState ≠ .idle) (hq : q ≠ .idle)
    (hh : s.holdLeft = 0#32) (hphase : s.phasesAfter = (s.openPhase v q n).phasesAfter + 1) :
    (s.openPhase v q n).edgesLeft + 1 = s.edgesLeft := by
  have htimer : (s.openPhase v q n).holdLeft.toNat + 1 = s.phaseCycles :=
    calc
      (eff s.stepDelayMicros - 1#32).toNat + 1 = (eff s.stepDelayMicros).toNat - 1 + 1 := by rw [eff_sub_one_toNat]
      _ = s.phaseCycles := Nat.sub_add_cancel s.phaseCycles_pos
  calc
    (s.openPhase v q n).edgesLeft + 1 = (s.openPhase v q n).phasesAfter * s.phaseCycles + s.phaseCycles + 1 := by
      rw [State.edgesLeft_of_busy hq, htimer]
      rfl
    _ = s.phasesAfter * s.phaseCycles + (0 + 1) := by rw [hphase, Nat.succ_mul]
    _ = s.edgesLeft := by rw [State.edgesLeft_of_busy hbusy, hh]; rfl

/-- Each edge of a running sequence leaves one edge fewer. -/
theorem edgesLeft_seqTick {s : State} (h : s.SequencerInv) (hq : s.seqState ≠ .idle) :
    s.seqTick.edgesLeft + 1 = s.edgesLeft := by
  have hn := h.stepsLeft_pos hq
  refine seqTick_cases (fun t => t.edgesLeft + 1 = s.edgesLeft) s ?hold ?low ?high ?finish
  case hold => exact edgesLeft_hold hq
  case low =>
    intro hh hhigh
    refine edgesLeft_openPhase hq nofun hh ?_
    rw [State.phasesAfter_of_high hhigh, State.phasesAfter_of_not_high SeqState.noConfusion]
    change 2 * s.stepsLeft.toNat - 1 = 2 * s.stepsLeft.toNat - 2 + 1
    omega
  case high =>
    intro hh hhigh h1
    have hpulse : (s.stepsLeft - 1#32).toNat = s.stepsLeft.toNat - 1 := sub_one_toNat fun h0 => hq (h.idle_iff.2 h0)
    have hne : s.stepsLeft.toNat ≠ 1 := fun e => h1 (BitVec.eq_of_toNat_eq e)
    refine edgesLeft_openPhase hq nofun hh ?_
    rw [State.phasesAfter_of_not_high hhigh, State.phasesAfter_of_high rfl]
    change 2 * s.stepsLeft.toNat - 2 = 2 * (s.stepsLeft - 1#32).toNat - 1 + 1
    omega
  case finish =>
    intro hh hhigh h1
    rw [State.edgesLeft_of_idle rfl, State.edgesLeft_of_busy hq, State.phasesAfter_of_not_high hhigh, hh, h1]
    simp

/-- An edge of a busy block leaves fewer edges: a reset leaves none at all. -/
theorem edgesLeft_lt_of_step {s t : State} (h : s.SequencerInv) (hq : s.seqState ≠ .idle) (ht : step s = .next t) :
    t.edgesLeft < s.edgesLeft := by
  have htick : s.seqTick.edgesLeft + 1 = s.edgesLeft := edgesLeft_seqTick h hq
  refine step_cases (fun t => t.edgesLeft < s.edgesLeft) ht ?reset ?tick ?quiet ?accept
  case reset =>
    intro _
    rw [State.edgesLeft_of_idle rfl, ← htick]
    exact Nat.succ_pos _
  case tick => exact fun _ _ => Nat.lt_of_succ_le (Nat.le_of_eq (edgesLeft_seqTick h.atEdge hq))
  case quiet => exact fun _ hidle => absurd hidle hq
  case accept => exact fun _ hidle => absurd hidle hq

/-- The pulses that are left take no more than two phases each. -/
theorem State.SequencerInv.edgesLeft_le {s : State} (h : s.SequencerInv) :
    s.edgesLeft ≤ 2 * s.stepsLeft.toNat * s.phaseCycles := by
  by_cases hq : s.seqState = .idle
  · rw [State.edgesLeft_of_idle hq]
    exact Nat.zero_le _
  · have hn := h.stepsLeft_pos hq
    have hphases : s.phasesAfter + 1 ≤ 2 * s.stepsLeft.toNat := by
      unfold State.phasesAfter
      split <;> omega
    calc
      s.edgesLeft = s.phasesAfter * s.phaseCycles + (s.holdLeft.toNat + 1) := State.edgesLeft_of_busy hq
      _ ≤ s.phasesAfter * s.phaseCycles + s.phaseCycles := Nat.add_le_add_left h.hold_lt _
      _ = (s.phasesAfter + 1) * s.phaseCycles := (Nat.succ_mul _ _).symm
      _ ≤ 2 * s.stepsLeft.toNat * s.phaseCycles := Nat.mul_le_mul_right _ hphases

/-- The longest sequence: `2^32 - 1` pulses of two phases of `2^32 - 1` cycles (R120). -/
theorem State.SequencerInv.edgesLeft_le_longest {s : State} (h : s.SequencerInv) :
    s.edgesLeft ≤ 2 * (2 ^ 32 - 1) ^ 2 :=
  calc
    s.edgesLeft ≤ 2 * s.stepsLeft.toNat * s.phaseCycles := h.edgesLeft_le
    _ ≤ 2 * (2 ^ 32 - 1) * (2 ^ 32 - 1) :=
      Nat.mul_le_mul (Nat.mul_le_mul_left 2 (Nat.le_pred_of_lt s.stepsLeft.isLt))
        (Nat.le_pred_of_lt (eff s.stepDelayMicros).isLt)
    _ = 2 * (2 ^ 32 - 1) ^ 2 := by norm_num

/-- A block is idle again when its edges have run out, whatever its inputs. -/
theorem exists_idle_within (m : Nat) (s : State) (h : s.SequencerInv) (hm : s.edgesLeft ≤ m) :
    ∃ k ≤ m, ∃ t, runEdges k s = .next t ∧ t.seqState = .idle := by
  induction m generalizing s with
  | zero =>
    refine ⟨0, le_rfl, s, rfl, ?_⟩
    by_contra hq
    rw [State.edgesLeft_of_busy hq] at hm
    omega
  | succ m ih =>
    by_cases hq : s.seqState = .idle
    · exact ⟨0, Nat.zero_le _, s, rfl, hq⟩
    · obtain ⟨t, ht⟩ := step_exists_next s
      have hlt := edgesLeft_lt_of_step h hq ht
      obtain ⟨k, hk, u, hu, hidle⟩ := ih t (sequencerInv_step h ht) (by omega)
      exact ⟨k + 1, Nat.succ_le_succ hk, u, (runEdges_succ k ht).trans hu, hidle⟩

/-- Settles O40: each edge leaves fewer of the edges there are, of which there are no more than in the longest sequence. -/
theorem everySequenceEnds : Obligations.EverySequenceEnds := by
  intro s h
  have hseq := ((inv_iff s).1 h).1
  obtain ⟨k, hk, t, ht, hidle⟩ := exists_idle_within _ s hseq hseq.edgesLeft_le_longest
  exact ⟨k, hk, t, ht, t.cmdReady_eq_true_iff.2 hidle⟩

end Sys2Proof.Machine
end

section
/-! PROOFS. Writers: what an operation, a tick and an edge leave in DriverState (R35), what an error leaves alone (R144), and what
the edges of a running sequence write and leave alone (R115, R124). -/

namespace Sys2Proof.Machine

open Sys2Proof.Claims

/-! ## DriverState (R35) -/

/-- An accepted operation leaves the DriverState of the operation level. -/
theorem exec_driver {i : Instr} {s t : State} (h : exec i s = .next t) : t.driver = driverAfter i s.driver := by
  refine exec_cases (fun t => t.driver = driverAfter i s.driver) h
    ?setDelay ?enable ?setDir ?stepZero ?steps ?setMode ?badMode ?speedError ?setSpeed ?version ?reserved
  case setDelay => rintro a rfl; rfl
  case enable => rintro a rfl; rw [s.enableLine_eq_setLines]; rfl
  case setDir => rintro a rfl; rfl
  case stepZero => rintro rfl; rfl
  case steps => rintro n _ (rfl | ⟨rfl, rfl⟩) <;> rfl
  case setMode => rintro a m rfl hm; simp [driverAfter, hm, State.driver]
  case badMode => rintro a rfl hm; simp [driverAfter, hm, State.driver]
  case speedError => rintro a rfl h0; exact (if_pos h0).symm
  case setSpeed => rintro a rfl ha hs; exact (if_neg (not_or.2 ⟨ha, hs⟩)).symm
  case version => rintro rfl; rfl
  case reserved => intro hw; cases i <;> cases hw <;> rfl

theorem seqTick_driver (s : State) : s.seqTick.driver = s.driver := by
  refine seqTick_cases (fun t => t.driver = s.driver) s ?hold ?low ?high ?finish
  all_goals intros; rfl

/-- DriverState after the next edge (R35). -/
def State.driverAfterEdge (s : State) : DriverState :=
  match s.edgeAction with
  | .reset c => (State.resetWith c).driver
  | .tick => s.driver
  | .quiet => s.driver
  | .accept w => driverAfter (decode w) s.driver

theorem step_driver {s t : State} (h : step s = .next t) : t.driver = s.driverAfterEdge := by
  refine step_cases (fun t => t.driver = s.driverAfterEdge) h ?reset ?tick ?quiet ?accept
  case reset => intro hr; simp only [State.driverAfterEdge, s.edgeAction_reset hr]; rfl
  case tick => intro hr hq; simp only [State.driverAfterEdge, s.edgeAction_tick hr hq]; exact seqTick_driver s.atEdge
  case quiet => intro hr hq hv; simp only [State.driverAfterEdge, s.edgeAction_quiet hr hq hv]; rfl
  case accept =>
    intro hr hq hv he
    simp only [State.driverAfterEdge, s.edgeAction_accept hr hq hv]
    exact exec_driver (s := s.atEdge) he

/-- An edge without reset leaves DriverState alone, unless it accepts an operation. -/
theorem driverAfterEdge_cases {s : State} (hr : s.sampled.rst = false) : s.driverAfterEdge = s.driver ∨
    s.edgeAction = .accept s.sampled.word ∧ s.driverAfterEdge = driverAfter (decode s.sampled.word) s.driver := by
  unfold State.driverAfterEdge
  rcases s.edgeAction_cases with ⟨hrst, _⟩ | ⟨_, _, ha⟩ | ⟨_, _, _, ha⟩ | ⟨_, _, _, ha⟩
  · rw [hr] at hrst
    cases hrst
  · rw [ha]
    exact .inl rfl
  · rw [ha]
    exact .inr ⟨rfl, rfl⟩
  · rw [ha]
    exact .inl rfl

/-- SETDIR alone writes `direction` (R11). -/
theorem driverAfter_direction_writer {i : Instr} {d : DriverState} (h : (driverAfter i d).direction ≠ d.direction) :
    ∃ a, i = .setDir a ∧ (driverAfter i d).direction = decide (a ≠ 0#32) := by
  cases i with
  | setDir a => exact ⟨a, rfl, isNonzero_eq a⟩
  | setSpeed a => simp only [driverAfter, apply_ite DriverState.direction, ite_self, ne_eq, not_true_eq_false] at h
  | _ => exact absurd rfl h

/-- SETDELAY, and SETSPEED with no divisor zero, alone write `stepDelayMicros` (R12). -/
theorem driverAfter_delay_writer {i : Instr} {d : DriverState} (h : (driverAfter i d).stepDelayMicros ≠ d.stepDelayMicros) :
    ∃ a, i = .setDelay a ∧ (driverAfter i d).stepDelayMicros = a ∨
      i = .setSpeed a ∧ a ≠ 0#32 ∧ d.stepsPerRevolution ≠ 0#32 ∧
        (driverAfter i d).stepDelayMicros.toNat = 60000000 / d.stepsPerRevolution.toNat / a.toNat := by
  cases i with
  | setDelay a => exact ⟨a, .inl ⟨rfl, rfl⟩⟩
  | setSpeed a =>
    by_cases h0 : a = 0#32 ∨ d.stepsPerRevolution = 0#32
    · exact absurd (by rw [driverAfter, if_pos h0]) h
    · refine ⟨a, .inr ⟨rfl, (not_or.1 h0).1, (not_or.1 h0).2, ?_⟩⟩
      rw [driverAfter, if_neg h0]
      exact speedDelay_toNat d.stepsPerRevolution a
  | _ => exact absurd rfl h

/-- SETMODE with the value of a mode alone writes `currentStepMode` (R14). -/
theorem driverAfter_mode_writer {i : Instr} {d : DriverState} (h : (driverAfter i d).currentStepMode ≠ d.currentStepMode) :
    ∃ a, i = .setMode a ∧ (driverAfter i d).currentStepMode.value = a := by
  cases i with
  | setMode a =>
    cases hm : modeOf a with
    | none => exact absurd (by rw [driverAfter, hm]; rfl) h
    | some m =>
      refine ⟨a, rfl, ?_⟩
      rw [driverAfter, hm]
      exact (modeOf_eq_some a m).1 hm
  | setSpeed a => simp only [driverAfter, apply_ite DriverState.currentStepMode, ite_self, ne_eq, not_true_eq_false] at h
  | _ => exact absurd rfl h

/-- Settles O15: an edge that changes a register of DriverState accepts an operation, and the operation level says which. -/
theorem eachDriverRegisterIsWrittenOnlyByItsWriters : Obligations.EachDriverRegisterIsWrittenOnlyByItsWriters := by
  intro s t h hr
  refine ⟨stepsPerRevolution_of_step h hr, ?_⟩
  have hafter := step_driver h
  rcases driverAfterEdge_cases hr with hkept | ⟨haccept, hdriver⟩
  · rw [hkept] at hafter
    simp only [State.driver, DriverState.mk.injEq] at hafter
    obtain ⟨hdir, hdelay, _, hmode⟩ := hafter
    exact ⟨fun hne => absurd hdir hne, fun hne => absurd hdelay hne, fun hne => absurd hmode hne⟩
  · rw [hdriver] at hafter
    have hdir : t.direction = (driverAfter (decode s.sampled.word) s.driver).direction :=
      congrArg DriverState.direction hafter
    have hdelay : t.stepDelayMicros = (driverAfter (decode s.sampled.word) s.driver).stepDelayMicros :=
      congrArg DriverState.stepDelayMicros hafter
    have hmode : t.currentStepMode = (driverAfter (decode s.sampled.word) s.driver).currentStepMode :=
      congrArg DriverState.currentStepMode hafter
    rw [hdir, hdelay, hmode]
    refine ⟨fun hne => ?_, fun hne => ?_, fun hne => ?_⟩
    · exact (driverAfter_direction_writer hne).imp fun _ hw => ⟨haccept, hw⟩
    · exact (driverAfter_delay_writer hne).imp fun _ hw => ⟨haccept, hw⟩
    · exact (driverAfter_mode_writer hne).imp fun _ hw => ⟨haccept, hw⟩

/-! ## Errors (R144) -/

/-- An operation that answers an error raises it and does nothing else. -/
theorem exec_error {i : Instr} {s t : State} (h : exec i s = .next t) (hv : t.rspValid = true) (hst : t.rspStatus ≠ .ok) :
    ∃ e, t = s.raise e := by
  refine exec_cases (fun t => t.rspValid = true → t.rspStatus ≠ .ok → ∃ e, t = s.raise e) h
    ?setDelay ?enable ?setDir ?stepZero ?steps ?setMode ?badMode ?speedError ?setSpeed ?version ?reserved hv hst
  case speedError => exact fun _ _ _ _ _ => ⟨.div0, rfl⟩
  case reserved => exact fun _ _ _ => ⟨.badOp, rfl⟩
  case steps => exact fun _ _ _ hv _ => absurd hv Bool.false_ne_true
  all_goals intros; exact absurd rfl ‹_ ≠ Status.ok›

/-- An edge that shows an error finds the block idle and raises the error. -/
theorem step_error {s t : State} (h : step s = .next t) (hv : t.rspValid = true) (hst : t.rspStatus ≠ .ok) :
    s.seqState = .idle ∧ ∃ e, t = s.atEdge.raise e := by
  refine step_cases (fun t => t.rspValid = true → t.rspStatus ≠ .ok → s.seqState = .idle ∧ ∃ e, t = s.atEdge.raise e) h
    ?reset ?tick ?quiet ?accept hv hst
  case reset => exact fun _ hv _ => absurd hv Bool.false_ne_true
  case tick =>
    intro _ _
    refine seqTick_cases (fun t => t.rspValid = true → t.rspStatus ≠ .ok → _) s.atEdge ?hold ?low ?high ?finish
    case finish => exact fun _ _ _ _ hst => absurd rfl hst
    all_goals intros; exact absurd ‹_ = true› Bool.false_ne_true
  case quiet => exact fun _ _ _ hv _ => absurd hv Bool.false_ne_true
  case accept => exact fun _ hq _ he hv hst => ⟨hq, exec_error he hv hst⟩

/-- Settles O17: an error is raised in an idle block, and to raise it is to respond with data 0. -/
theorem anErrorChangesOnlyTheResponse : Obligations.AnErrorChangesOnlyTheResponse := by
  intro s t h hv hst
  obtain ⟨hq, e, rfl⟩ := step_error h hv hst
  exact ⟨rfl, rfl, rfl, (State.cmdReady_eq_true_iff _).2 hq⟩

/-! ## The edges of a running sequence (R115, R124) -/

theorem State.busy_iff (s : State) : s.busy = true ↔ s.seqState ≠ .idle := bne_iff_ne

/-- An edge of a running sequence writes the lines, the sequencer and the response registers, and nothing else. -/
theorem seqTick_frame (s : State) : s.seqTick = { s with
    lines := s.seqTick.lines, seqState := s.seqTick.seqState, holdLeft := s.seqTick.holdLeft,
    stepsLeft := s.seqTick.stepsLeft, rspValid := s.seqTick.rspValid, rspStatus := s.seqTick.rspStatus,
    rspData := s.seqTick.rspData } := by
  refine seqTick_cases (fun t => t = { s with
    lines := t.lines, seqState := t.seqState, holdLeft := t.holdLeft, stepsLeft := t.stepsLeft, rspValid := t.rspValid,
    rspStatus := t.rspStatus, rspData := t.rspData }) s ?hold ?low ?high ?finish
  all_goals intros; rfl

/-- No line but STEP is written while a sequence runs. -/
theorem seqTick_line_of_ne (s : State) {l : Line} (hl : l ≠ .step) : s.seqTick.line l = s.line l := by
  rw [seqTick_line, levelAfterTick, if_neg fun h => hl h.1]

/-- Settles O18: an edge of a busy block without reset is one of the sequence. -/
theorem aSequenceWritesOnlyTheStepLine : Obligations.ASequenceWritesOnlyTheStepLine := by
  intro s t hbusy hr h
  rw [step_of_busy s hr (s.busy_iff.1 hbusy)] at h
  cases h
  exact ⟨fun l hl => seqTick_line_of_ne s.atEdge hl, seqTick_frame s.atEdge⟩

/-- A phase lasts as long as the delay says, and at least one cycle (R113). -/
theorem eff_toNat (d : Word) : (eff d).toNat = max 1 d.toNat := by
  unfold eff
  split
  · next h => rw [h]; rfl
  · next h => exact (max_eq_right (toNat_pos_of_ne_zero h)).symm

/-- The timer after the start of a phase. -/
theorem State.openPhase_holdLeft_toNat (s : State) (v : Bool) (q : SeqState) (n : Word) :
    (s.openPhase v q n).holdLeft.toNat = max 1 s.stepDelayMicros.toNat - 1 := by
  rw [← eff_toNat, ← eff_sub_one_toNat]
  rfl

/-- Settles O36: the four branches of `seq_tick`, each with what it leaves. -/
theorem busyEdgeMovesTheSequenceOn : Obligations.BusyEdgeMovesTheSequenceOn := by
  intro s hbusy hr
  refine ⟨s.atEdge.seqTick, step_of_busy s hr (s.busy_iff.1 hbusy), fun l hl => seqTick_line_of_ne s.atEdge hl,
    seqTick_driver s.atEdge, by rw [seqTick_frame]; rfl, ?hold, ?low, ?high, ?finish⟩
  case hold =>
    intro hh
    rw [seqTick_of_hold (s := s.atEdge) hh]
    exact ⟨sub_one_toNat hh, rfl, rfl, rfl, rfl⟩
  case low =>
    intro hh hq
    rw [seqTick_of_high (s := s.atEdge) hh hq]
    exact ⟨s.atEdge.openPhase_line _ _ _ .step, s.atEdge.openPhase_holdLeft_toNat _ _ _, rfl, rfl, rfl⟩
  case high =>
    intro hh hq hn
    rw [seqTick_of_low (s := s.atEdge) hh hq hn]
    exact ⟨s.atEdge.openPhase_line _ _ _ .step, s.atEdge.openPhase_holdLeft_toNat _ _ _, rfl, rfl, rfl⟩
  case finish =>
    intro hh hq hn
    rw [seqTick_of_last (s := s.atEdge) hh hq hn]
    exact ⟨rfl, hh, rfl, rfl, rfl, rfl, rfl⟩

end Sys2Proof.Machine
end

section
/-! PROOFS. Independence: no edge reads a line level (R43), `direction` or `currentStepMode`, and what follows for the wires (R17,
R34). -/

namespace Sys2Proof.Machine

open Sys2Proof.Claims

/-- The state with other contents of the registers that no edge reads: the lines, `direction` and `currentStepMode`. -/
def State.withUnread (ls : BitVec 5) (d : Bool) (m : StepMode) (s : State) : State :=
  { s with lines := ls, direction := d, currentStepMode := m }

/-- What an operation does to the other registers does not depend on them. -/
theorem exec_withUnread {i : Instr} {s t : State} (h : exec i s = .next t) (ls : BitVec 5) (d : Bool) (m : StepMode) :
    ∃ ls' d' m', exec i (s.withUnread ls d m) = .next (t.withUnread ls' d' m') := by
  refine exec_cases (fun t => ∃ ls' d' m', exec i (s.withUnread ls d m) = .next (t.withUnread ls' d' m')) h
    ?setDelay ?enable ?setDir ?stepZero ?steps ?setMode ?badMode ?speedError ?setSpeed ?version ?reserved
  case setDelay => rintro a rfl; exact ⟨ls, d, m, rfl⟩
  case enable =>
    rintro a rfl
    rw [s.enableLine_eq_setLines]
    exact ⟨_, d, m, exec_enable a (s.withUnread ls d m)⟩
  case setDir => rintro a rfl; exact ⟨_, isNonzero a, m, rfl⟩
  case stepZero => rintro rfl; exact ⟨ls, d, m, rfl⟩
  case steps =>
    intro n hn hi
    have hp : pulsesOf i = n := by rcases hi with rfl | ⟨rfl, rfl⟩ <;> rfl
    exact ⟨_, d, m, exec_of_pulsesOf hp hn (s.withUnread ls d m)⟩
  case setMode =>
    rintro a m' rfl hm
    obtain rfl := (modeOf_eq_some a m').1 hm
    exact ⟨_, d, m', exec_setMode_value m' (s.withUnread ls d m)⟩
  case badMode => rintro a rfl hm; exact ⟨ls, d, m, exec_setMode_of_modeOf_eq_none hm (s.withUnread ls d m)⟩
  case speedError => rintro a rfl h0; exact ⟨ls, d, m, exec_setSpeed_of_zero_divisor (s := s.withUnread ls d m) h0⟩
  case setSpeed => rintro a rfl ha hs; exact ⟨ls, d, m, exec_setSpeed_of_ne_zero (s := s.withUnread ls d m) ha hs⟩
  case version => rintro rfl; exact ⟨ls, d, m, rfl⟩
  case reserved => exact fun hw => ⟨ls, d, m, exec_of_not_wellFormed hw (s.withUnread ls d m)⟩

/-- What an edge of a running sequence does to the other registers does not depend on them. -/
theorem seqTick_withUnread {s : State} (hbusy : s.seqState ≠ .idle) (ls : BitVec 5) (d : Bool) (m : StepMode) :
    ∃ ls', (s.withUnread ls d m).seqTick = s.seqTick.withUnread ls' d m := by
  refine seqTick_cases (fun t => ∃ ls', (s.withUnread ls d m).seqTick = t.withUnread ls' d m) s ?hold ?low ?high ?finish
  case hold => exact fun hh => ⟨ls, seqTick_of_hold (s := s.withUnread ls d m) hh⟩
  case low => exact fun hh hq => ⟨_, seqTick_of_high (s := s.withUnread ls d m) hh hq⟩
  case high => exact fun hh hq hn => ⟨_, seqTick_of_low (s := s.withUnread ls d m) hh (SeqState.eq_phLow hbusy hq) hn⟩
  case finish => exact fun hh hq hn => ⟨ls, seqTick_of_last (s := s.withUnread ls d m) hh (SeqState.eq_phLow hbusy hq) hn⟩

/-- What an edge does to the other registers does not depend on them. -/
theorem step_withUnread {s t : State} (h : step s = .next t) (ls : BitVec 5) (d : Bool) (m : StepMode) :
    ∃ ls' d' m', step (s.withUnread ls d m) = .next (t.withUnread ls' d' m') := by
  refine step_cases (fun t => ∃ ls' d' m', step (s.withUnread ls d m) = .next (t.withUnread ls' d' m')) h
    ?reset ?tick ?quiet ?accept
  case reset => exact fun hr => ⟨_, _, _, step_of_reset (s.withUnread ls d m) hr⟩
  case tick =>
    intro hr hq
    obtain ⟨ls', htick⟩ := seqTick_withUnread (s := s.atEdge) hq ls d m
    exact ⟨ls', d, m, (step_of_busy (s.withUnread ls d m) hr hq).trans (congrArg _ htick)⟩
  case quiet => exact fun hr hq hv => ⟨ls, d, m, step_of_quiet (s.withUnread ls d m) hr hq hv⟩
  case accept =>
    intro hr hq hv he
    obtain ⟨ls', d', m', hu⟩ := exec_withUnread he ls d m
    exact ⟨ls', d', m', (step_of_accept (s.withUnread ls d m) hr hq hv).trans hu⟩

/-! ## The lines (R17, R43) -/

theorem State.setLines_edgeAction (s : State) (ls : BitVec 5) : (s.setLines ls).edgeAction = s.edgeAction := rfl

/-- An operation gives a line a level of its own, or leaves it the level it had, whatever the lines are. -/
theorem levelAfter_setLines (s : State) (ls : BitVec 5) (l : Line) (i : Instr) :
    levelAfter s l i = levelAfter (s.setLines ls) l i ∨
    levelAfter s l i = s.line l ∧ levelAfter (s.setLines ls) l i = (s.setLines ls).line l := by
  cases i with
  | setMode m =>
    cases hrow : printedRows.lookup m with
    | none => simp [levelAfter, hrow]
    | some r => cases l <;> simp [levelAfter, hrow, rowLevel]
  | stepOnce => by_cases hl : l = .step <;> simp [levelAfter, hl]
  | step n => by_cases hl : l = .step ∧ n ≠ 0#32 <;> simp [levelAfter, hl]
  | setDir a => by_cases hl : l = .dir <;> simp [levelAfter, hl]
  | enable a => by_cases hl : l = .en ∧ Config.hasEn = true <;> simp [levelAfter, hl]
  | _ => exact .inr ⟨rfl, rfl⟩

theorem levelAfterTick_setLines (s : State) (ls : BitVec 5) (l : Line) :
    levelAfterTick s l = levelAfterTick (s.setLines ls) l ∨
    levelAfterTick s l = s.line l ∧ levelAfterTick (s.setLines ls) l = (s.setLines ls).line l := by
  by_cases hw : l = .step ∧ s.holdLeft = 0#32
  · by_cases hq : s.seqState = .phHigh
    · simp [levelAfterTick, hw, hq]
    · by_cases hn : s.stepsLeft = 1#32 <;> simp [levelAfterTick, hw, hq, hn]
  · simp [levelAfterTick, hw]

theorem muxLevel_setLines (s : State) (ls : BitVec 5) (l : Line) :
    muxLevel s l = muxLevel (s.setLines ls) l ∨
    muxLevel s l = s.line l ∧ muxLevel (s.setLines ls) l = (s.setLines ls).line l := by
  simp only [muxLevel, State.setLines_edgeAction]
  cases s.edgeAction with
  | reset c => exact .inl rfl
  | tick => exact levelAfterTick_setLines s ls l
  | quiet => exact .inr ⟨rfl, rfl⟩
  | accept w => exact levelAfter_setLines s ls l (decode w)

/-- Edges from states that differ in the lines alone lead to states that do: DriverState comes out alike, by its writers. -/
theorem step_setLines {s t : State} (h : step s = .next t) (ls : BitVec 5) :
    ∃ ls', step (s.setLines ls) = .next (t.setLines ls') := by
  obtain ⟨ls', d', m', hu⟩ := step_withUnread h ls s.direction s.currentStepMode
  have hdriver : (t.withUnread ls' d' m').driver = t.driver := (step_driver hu).trans (step_driver h).symm
  have hdir : d' = t.direction := congrArg DriverState.direction hdriver
  have hmode : m' = t.currentStepMode := congrArg DriverState.currentStepMode hdriver
  rw [hdir, hmode] at hu
  exact ⟨ls', hu⟩

/-- Settles O19: the registers other than the lines come out alike, and each line is written alike or not at all. -/
theorem noEdgeReadsALineLevel : Obligations.NoEdgeReadsALineLevel := by
  intro s ls
  obtain ⟨t, ht⟩ := step_exists_next s
  obtain ⟨ls', hu⟩ := step_setLines ht ls
  refine ⟨t, t.setLines ls', ht, hu, rfl, fun l => ?_⟩
  rw [step_line ht, step_line hu]
  exact muxLevel_setLines s ls l

/-! ## `direction` and `currentStepMode` (R34) -/

/-- The state with other values of the two registers of DriverState that no port shows. -/
def State.withHidden (d : Bool) (m : StepMode) (s : State) : State := { s with direction := d, currentStepMode := m }

/-- From states that differ in these alone, an edge leads to states that do. -/
theorem step_withHidden {s t : State} (h : step s = .next t) (d : Bool) (m : StepMode) :
    ∃ d' m', step (s.withHidden d m) = .next (t.withHidden d' m') := by
  obtain ⟨ls', d', m', hu⟩ := step_withUnread h s.lines d m
  have hlines : ls' = t.lines := lines_ext (s := t.withUnread ls' d' m') fun l => by rw [step_line hu, step_line h]; rfl
  exact ⟨d', m', by rw [hlines] at hu; exact hu⟩

theorem runEdges_withHidden (k : Nat) (s : State) (d : Bool) (m : StepMode) :
    ∃ t d' m', runEdges k s = .next t ∧ runEdges k (s.withHidden d m) = .next (t.withHidden d' m') := by
  induction k generalizing s d m with
  | zero => exact ⟨s, d, m, rfl, rfl⟩
  | succ k ih =>
    obtain ⟨t, ht⟩ := step_exists_next s
    obtain ⟨d', m', hu⟩ := step_withHidden ht d m
    simp only [runEdges_succ k ht, runEdges_succ k hu]
    exact ih t d' m'

/-- Settles O20: the two runs differ in the hidden registers alone, and the ports show neither. -/
theorem noRunShowsDirectionOrMode : Obligations.NoRunShowsDirectionOrMode := by
  intro k s d m
  obtain ⟨t, d', m', ht, hu⟩ := runEdges_withHidden k s d m
  exact ⟨t, _, ht, hu, rfl⟩

end Sys2Proof.Machine
end

section
/-! PROOFS. Wire: what an accepted sequence shows in every cycle and on the STEP wire (R119, R122, R173). -/

namespace Sys2Proof.Machine

open Sys2Proof.Claims

/-! ## The timeline (R119) -/

section
variable {s : State} {n : Word} {p r : Nat}

/-- STEP is HIGH in the even phases and LOW in the odd ones. -/
theorem State.inSequence_line_step : (s.inSequence n p r).line .step = (p % 2 == 0) := by
  rw [State.line, State.inSequence, writeBit_getLsbD _ _ _ _ Line.step.index_lt Line.step.index_lt, if_pos rfl]

theorem State.inSequence_seqState_of_even (hp : p % 2 = 0) : (s.inSequence n p r).seqState = .phHigh := if_pos hp

theorem State.inSequence_seqState_of_odd (hp : p % 2 = 1) : (s.inSequence n p r).seqState = .phLow :=
  if_neg (by omega)

end

/-- Settles O37: pulse `j` is the phases `2 * j` and `2 * j + 1`. -/
theorem pulseTimelineIsExactToTheCycle : Obligations.PulseTimelineIsExactToTheCycle := by
  rintro s n D j c h rfl hj hc
  have heven : 2 * j % 2 = 0 := by omega
  have hodd : (2 * j + 1) % 2 = 1 := by omega
  refine ⟨⟨s.inSequence n (2 * j) c, ?highRun, State.inSequence_seqState_of_even heven, ?highLevel,
      State.inSequence_holdLeft_toNat hc, ?highPulses⟩,
    ⟨s.inSequence n (2 * j + 1) c, ?lowRun, State.inSequence_seqState_of_odd hodd, ?lowLevel,
      State.inSequence_holdLeft_toNat hc, ?lowPulses⟩⟩
  case highRun => rw [Nat.add_assoc]; exact runEdges_inSequence h (by omega) hc
  case highLevel => rw [State.inSequence_line_step, heven]; rfl
  case highPulses => rw [State.inSequence_stepsLeft_toNat (by omega)]; congr 1; omega
  case lowRun => rw [Nat.add_assoc]; exact runEdges_inSequence h (by omega) hc
  case lowLevel => rw [State.inSequence_line_step, hodd]; rfl
  case lowPulses => rw [State.inSequence_stepsLeft_toNat (by omega)]; congr 1; omega

/-! ## The edges of the wire (R122) -/

/-- What a run shows is what its parts show. -/
theorem countEdges_add (edge : State → State → Bool) (j k : Nat) {s t : State} (h : runEdges j s = .next t) :
    countEdges edge (j + k) s = countEdges edge j s + countEdges edge k t := by
  induction j generalizing s with
  | zero => cases h; rw [Nat.zero_add]; exact (Nat.zero_add _).symm
  | succ j ih =>
    obtain ⟨u, hu⟩ := step_exists_next s
    rw [runEdges_succ j hu] at h
    rw [Nat.succ_add, countEdges_succ edge (j + k) hu, countEdges_succ edge j hu, ih h, Nat.add_assoc]

theorem countEdges_one (edge : State → State → Bool) {s t : State} (h : step s = .next t) :
    countEdges edge 1 s = (edge s t).toNat := countEdges_succ edge 0 h

/-- One edge more at the end of a run. -/
theorem countEdges_add_one (edge : State → State → Bool) {k : Nat} {s t u : State} (ht : runEdges k s = .next t)
    (hu : step t = .next u) : countEdges edge (k + 1) s = countEdges edge k s + (edge t u).toNat := by
  rw [countEdges_add edge k 1 ht, countEdges_one edge hu]

section
/- `edge` is seen at some of the changes of STEP and nowhere else, and `count p` times before phase `p`. -/
variable {s : State} {n : Word} {p r : Nat} {edge : State → State → Bool} {count : Nat → Nat}
  (hedge : ∀ t u : State, t.line .step = u.line .step → edge t u = false) (h : StepAccepted s n)
include hedge h

/-- Within a phase the wire stays at its level. -/
theorem countEdges_withinPhase (hp : p < 2 * n.toNat) (hr : r < s.phaseCycles) :
    countEdges edge r (s.inSequence n p 0) = 0 := by
  induction r with
  | zero => rfl
  | succ r ih =>
    have hlt : r < s.phaseCycles := Nat.lt_of_succ_lt hr
    have hstep : step (s.inSequence n p r) = .next (s.inSequence n p (r + 1)) := by
      rw [step_inSequence h hp hlt, State.inSequence_tick_hold hr]
    have hlevel : edge (s.inSequence n p r) (s.inSequence n p (r + 1)) = false :=
      hedge _ _ (by rw [State.inSequence_line_step, State.inSequence_line_step])
    rw [countEdges_add_one edge (runEdges_withinPhase h hp hlt) hstep, ih hlt, hlevel]
    rfl

/-- Over a whole phase the wire shows what the edge at its end shows. -/
theorem countEdges_phase {u : State} (hp : p < 2 * n.toNat) (hr : r + 1 = s.phaseCycles)
    (hu : step (s.inSequence n p r) = .next u) :
    countEdges edge s.phaseCycles (s.inSequence n p 0) = (edge (s.inSequence n p r) u).toNat := by
  have hlt : r < s.phaseCycles := by omega
  rw [← hr, countEdges_add_one edge (runEdges_withinPhase h hp hlt) hu, countEdges_withinPhase hedge h hp hlt,
    Nat.zero_add]

/-- If each phase adds to the count what the edge at its end shows, the wire up to phase `p` shows the count. -/
theorem countEdges_phaseStart (hfirst : (edge s (s.inSequence n 0 0)).toNat = count 0)
    (hnext : ∀ p r, count p + (edge (s.inSequence n p r) (s.inSequence n (p + 1) 0)).toNat = count (p + 1))
    (hp : p < 2 * n.toNat) : countEdges edge (1 + p * s.phaseCycles) s = count p := by
  obtain ⟨r, hr⟩ : ∃ r, r + 1 = s.phaseCycles := Nat.exists_add_one_eq.2 s.phaseCycles_pos
  induction p with
  | zero => rw [Nat.zero_mul, countEdges_one edge (step_of_stepAccepted h), hfirst]
  | succ p ih =>
    have hp' : p < 2 * n.toNat := Nat.lt_of_succ_lt hp
    have hstep : step (s.inSequence n p r) = .next (s.inSequence n (p + 1) 0) := by
      rw [step_inSequence h hp' (by omega), State.inSequence_tick_phaseEnd hp hr]
    rw [Nat.succ_mul, ← Nat.add_assoc, countEdges_add edge _ _ (runEdges_phaseStart h hp'), ih hp',
      countEdges_phase hedge h hp' hr hstep, hnext]

/-- The end of the sequence leaves STEP LOW as it was: the wire over the sequence shows the count before its last phase. -/
theorem countEdges_sequence (hfirst : (edge s (s.inSequence n 0 0)).toNat = count 0)
    (hnext : ∀ p r, count p + (edge (s.inSequence n p r) (s.inSequence n (p + 1) 0)).toNat = count (p + 1))
    (hp : p + 1 = 2 * n.toNat) : countEdges edge (1 + 2 * n.toNat * s.phaseCycles) s = count p := by
  obtain ⟨r, hr⟩ : ∃ r, r + 1 = s.phaseCycles := Nat.exists_add_one_eq.2 s.phaseCycles_pos
  have hp' : p < 2 * n.toNat := by omega
  have hodd : p % 2 = 1 := by omega
  have hstep : step (s.inSequence n p r) = .next (s.afterSequence n) := by
    rw [step_inSequence h hp' (by omega), State.inSequence_tick_last h.idle hp hr]
  have hlevel : edge (s.inSequence n p r) (s.afterSequence n) = false :=
    hedge _ _ (by rw [State.inSequence_line_step, s.afterSequence_line n, hodd]; rfl)
  rw [← hp, Nat.succ_mul, ← Nat.add_assoc, countEdges_add edge _ _ (runEdges_phaseStart h hp'),
    countEdges_phaseStart hedge h hfirst hnext hp', countEdges_phase hedge h hp' hr hstep, hlevel]
  rfl

end

theorem stepRises_of_line_eq (t u : State) (h : t.line .step = u.line .step) : stepRises t u = false := by
  rw [stepRises, h, Bool.not_and_self]

theorem stepFalls_of_line_eq (t u : State) (h : t.line .step = u.line .step) : stepFalls t u = false := by
  rw [stepFalls, h, Bool.and_not_self]

/-- STEP rises from a LOW phase to the HIGH phase after it. -/
theorem stepRises_nextPhase (s : State) (n : Word) (p r : Nat) :
    (stepRises (s.inSequence n p r) (s.inSequence n (p + 1) 0)).toNat = p % 2 := by
  rw [stepRises, State.inSequence_line_step, State.inSequence_line_step, Nat.add_mod]
  rcases Nat.mod_two_eq_zero_or_one p with heven | hodd
  · rw [heven]; rfl
  · rw [hodd]; rfl

/-- STEP falls from a HIGH phase to the LOW phase after it. -/
theorem stepFalls_nextPhase (s : State) (n : Word) (p r : Nat) :
    (stepFalls (s.inSequence n p r) (s.inSequence n (p + 1) 0)).toNat = 1 - p % 2 := by
  rw [stepFalls, State.inSequence_line_step, State.inSequence_line_step, Nat.add_mod]
  rcases Nat.mod_two_eq_zero_or_one p with heven | hodd
  · rw [heven]; rfl
  · rw [hodd]; rfl

/-- STEP rises at the end of each odd phase but the last, besides the accepting edge: `p / 2` times before phase `p`. -/
theorem countEdges_stepRises {s : State} {n : Word} (h : StepAccepted s n) {p : Nat} (hp : p + 1 = 2 * n.toNat) :
    countEdges stepRises (1 + 2 * n.toNat * s.phaseCycles) s = (!s.line .step).toNat + p / 2 := by
  refine countEdges_sequence (count := fun p => (!s.line .step).toNat + p / 2) stepRises_of_line_eq h ?first ?next hp
  case first => rw [stepRises, State.inSequence_line_step]; simp
  case next =>
    intro p r
    rw [stepRises_nextPhase]
    omega

/-- STEP falls at the end of each even phase: `(p + 1) / 2` times before phase `p`. -/
theorem countEdges_stepFalls {s : State} {n : Word} (h : StepAccepted s n) {p : Nat} (hp : p + 1 = 2 * n.toNat) :
    countEdges stepFalls (1 + 2 * n.toNat * s.phaseCycles) s = (p + 1) / 2 := by
  refine countEdges_sequence (count := fun p => (p + 1) / 2) stepFalls_of_line_eq h ?first ?next hp
  case first => rw [stepFalls, State.inSequence_line_step]; simp
  case next =>
    intro p r
    rw [stepFalls_nextPhase]
    omega

/-- Settles O39: the counts before the last phase, phase `2 * n - 1`. -/
theorem sequenceShowsItsPulsesOnTheWire : Obligations.SequenceShowsItsPulsesOnTheWire := by
  rintro s n T h rfl
  have hn := toNat_pos_of_ne_zero h.some_pulse
  obtain ⟨p, hp⟩ : ∃ p, p + 1 = 2 * n.toNat := Nat.exists_add_one_eq.2 (by omega)
  have hlow : (!s.line .step).toNat = 1 - (s.line .step).toNat := by cases s.line .step <;> rfl
  have hlevel := Bool.toNat_le (s.line .step)
  exact ⟨(countEdges_stepRises h hp).trans (by omega), (countEdges_stepFalls h hp).trans (by omega)⟩

end Sys2Proof.Machine
end

section
/-! PROOFS. Refinement: the cycle level keeps to the operation level (R9). The events of the step operations are a train of
pulses, whose levels are those of the cycles of a sequence; those of every other operation are line writes alone, which are what
the accepting edge writes. -/

namespace Sys2Proof.Machine

open Sys2Proof.Claims

/-! ## The events of the step operations -/

/-- The events of `k` pulses one after the other (R112). -/
def pulseTrain (d : Word) (k : Nat) : List OpEvent := (List.replicate k (pulseEvents d)).flatten

theorem pulseTrain_succ (d : Word) (k : Nat) : pulseTrain d (k + 1) = pulseEvents d ++ pulseTrain d k := by
  rw [pulseTrain, List.replicate_succ, List.flatten_cons, pulseTrain]

/-- Settles O35: either operation is one of one pulse, and the events of STEP are those of so many pulses. -/
theorem stepOnceIsStepOfOne : Obligations.StepOnceIsStepOfOne := by
  refine ⟨fun s => ?_, fun _ _ _ => rfl⟩
  calc
    exec .stepOnce s = .next (s.startSequence 1#32) := exec_of_pulsesOf rfl (by decide) s
    _ = exec (.step 1#32) s := (exec_of_pulsesOf (i := .step 1#32) rfl (by decide) s).symm

/-- An operation of `n` pulses, `n` not 0, has their events, leaves DriverState alone and responds `OK` with data 0. -/
theorem opLevel_of_pulsesOf {i : Instr} {n : Word} (hp : pulsesOf i = n) (hn : n ≠ 0#32) (hasEn : Bool) (d : DriverState) :
    events hasEn i d = pulseTrain d.stepDelayMicros n.toNat ∧ driverAfter i d = d ∧ responseOf i d = (.ok, 0#32) := by
  cases i with
  | step count => subst hp; exact ⟨rfl, rfl, rfl⟩
  | stepOnce => subst hp; exact ⟨(List.append_nil _).symm, rfl, rfl⟩
  | _ => exact absurd hp.symm hn

/-- A pulse lasts two phases, and so does each of a train (R113). -/
theorem eventCycles_pulseTrain (d : Word) (k : Nat) : eventCycles (pulseTrain d k) = 2 * k * (eff d).toNat := by
  induction k with
  | zero => exact (Nat.zero_mul _).symm
  | succ k ih =>
    have hpulse : eventCycles (pulseTrain d (k + 1)) = (eff d).toNat + ((eff d).toNat + eventCycles (pulseTrain d k)) := by
      rw [pulseTrain_succ]
      rfl
    rw [hpulse, ih]
    ring

/-! ## The levels of a train -/

/-- STEP after the first pulse of a train is HIGH for a phase, LOW for a phase, and then what the rest of the train makes it. -/
theorem levelsAt_pulseTrain_succ (ls : BitVec 5) (d : Word) (k c : Nat) : levelsAt ls (pulseTrain d (k + 1)) c =
    if c < (eff d).toNat then writeBit ls Line.step.index true
    else if c - (eff d).toNat < (eff d).toNat then writeBit ls Line.step.index false
    else levelsAt (writeBit ls Line.step.index false) (pulseTrain d k) (c - (eff d).toNat - (eff d).toNat) := by
  rw [pulseTrain_succ, ← writeBit_writeBit ls .step true false]
  rfl

/-- Two phases later, the train is one pulse shorter. -/
theorem levelsAt_pulseTrain_after (ls : BitVec 5) (d : Word) (k c : Nat) :
    levelsAt ls (pulseTrain d (k + 1)) ((eff d).toNat + ((eff d).toNat + c)) =
      levelsAt (writeBit ls Line.step.index false) (pulseTrain d k) c := by
  rw [levelsAt_pulseTrain_succ, if_neg (by omega), if_neg (by omega), Nat.add_sub_cancel_left, Nat.add_sub_cancel_left]

/-- Cycle `r` of phase `p` of a train has the level of STEP that phase has. -/
theorem levelsAt_pulseTrain (ls : BitVec 5) (d : Word) {k p r : Nat} (hp : p < 2 * k) (hr : r < (eff d).toNat) :
    levelsAt ls (pulseTrain d k) (p * (eff d).toNat + r) = writeBit ls Line.step.index (p % 2 == 0) := by
  induction k generalizing ls p with
  | zero => exact absurd hp (Nat.not_lt_zero p)
  | succ k ih =>
    match p with
    | 0 => rw [levelsAt_pulseTrain_succ, Nat.zero_mul, Nat.zero_add, if_pos hr]; rfl
    | 1 => rw [levelsAt_pulseTrain_succ, Nat.one_mul, if_neg (by omega), Nat.add_sub_cancel_left, if_pos hr]; rfl
    | q + 2 =>
      have htime : (q + 2) * (eff d).toNat + r = (eff d).toNat + ((eff d).toNat + (q * (eff d).toNat + r)) := by ring
      rw [htime, levelsAt_pulseTrain_after, ih _ (by omega), writeBit_writeBit, Nat.add_mod_right]

/-- After a train, which ends LOW, STEP stays LOW. -/
theorem levelsAt_pulseTrain_end (ls : BitVec 5) (d : Word) (k : Nat) :
    levelsAt ls (pulseTrain d (k + 1)) (2 * (k + 1) * (eff d).toNat) = writeBit ls Line.step.index false := by
  have htime : ∀ k, 2 * (k + 1) * (eff d).toNat = (eff d).toNat + ((eff d).toNat + 2 * k * (eff d).toNat) := fun k => by ring
  induction k generalizing ls with
  | zero => rw [htime, levelsAt_pulseTrain_after]; rfl
  | succ k ih => rw [htime, levelsAt_pulseTrain_after, ih, writeBit_writeBit]

/-! ## The step operations -/

section
variable {s : State} {n : Word}

/-- The lines of an accepted sequence in each of its cycles, and after it, are those of its train. -/
theorem lines_of_stepAccepted (h : StepAccepted s n) {c : Nat} (hc : c ≤ 2 * n.toNat * s.phaseCycles) :
    ∃ t, runEdges (1 + c) s = .next t ∧ t.lines = levelsAt s.lines (pulseTrain s.stepDelayMicros n.toNat) c := by
  rcases Nat.lt_or_eq_of_le hc with hlt | rfl
  · have hp : c / s.phaseCycles < 2 * n.toNat := Nat.div_lt_of_lt_mul (by rwa [Nat.mul_comm])
    have hr := Nat.mod_lt c s.phaseCycles_pos
    have hrun := runEdges_inSequence h hp hr
    have hlevels := levelsAt_pulseTrain s.lines s.stepDelayMicros hp hr
    rw [← State.phaseCycles] at hlevels
    rw [Nat.div_add_mod'] at hrun hlevels
    exact ⟨_, hrun, hlevels.symm⟩
  · obtain ⟨m, hm⟩ := Nat.exists_eq_succ_of_ne_zero (toNat_pos_of_ne_zero h.some_pulse).ne'
    refine ⟨_, runEdges_afterSequence h, ?_⟩
    rw [hm]
    exact (levelsAt_pulseTrain_end s.lines s.stepDelayMicros m).symm

end

/-! ## The operations without holds -/

/-- The one write of a pattern comes to the four writes the operation level lists (R46, R82). -/
theorem levelsAt_patternEvents (s : State) (p : BitVec 4) :
    levelsAt s.lines (patternEvents p) 0 = (s.writePattern p).lines := by
  have hwrites : levelsAt s.lines (patternEvents p) 0 = ((((s.lineWrite .mode1 (p.getLsbD 0)).lineWrite .mode2
      (p.getLsbD 1)).lineWrite .step (p.getLsbD 2)).lineWrite .dir (p.getLsbD 3)).lines := rfl
  rw [hwrites]
  apply lines_ext
  intro l
  simp only [State.lineWrite_line, State.writePattern_line]
  cases l <;> rfl

/-- An operation without pulses has no holds (R113). -/
theorem eventCycles_events {i : Instr} (hp : pulsesOf i = 0#32) (hasEn : Bool) (d : DriverState) :
    eventCycles (events hasEn i d) = 0 := by
  cases i with
  | step count => cases hp; rfl
  | stepOnce => cases hp
  | enable on => cases hasEn <;> rfl
  | setMode mode => rw [events]; cases modeOf mode <;> rfl
  | _ => rfl

/-- An operation without pulses leaves the lines its line writes leave. -/
theorem exec_lines {i : Instr} {s t : State} (hp : pulsesOf i = 0#32) (h : exec i s = .next t) :
    t.lines = levelsAt s.lines (events Config.hasEn i s.driver) 0 := by
  refine exec_cases (fun t => t.lines = levelsAt s.lines (events Config.hasEn i s.driver) 0) h
    ?setDelay ?enable ?setDir ?stepZero ?steps ?setMode ?badMode ?speedError ?setSpeed ?version ?reserved
  case setDelay => rintro a rfl; rfl
  case enable => rintro a rfl; rw [State.respond_lines, State.enableLine_eq, events]; split <;> rfl
  case setDir => rintro a rfl; simp [events, levelsAt, isNonzero, bne]
  case stepZero => rintro rfl; rfl
  case steps =>
    rintro n hn (rfl | ⟨rfl, rfl⟩)
    · exact absurd hp hn
    · exact absurd hp hn
  case setMode => rintro a m rfl hm; rw [events, hm]; exact (levelsAt_patternEvents s _).symm
  case badMode => rintro a rfl hm; rw [events, hm]; rfl
  case speedError => rintro a rfl _; rfl
  case setSpeed => rintro a rfl _ _; rfl
  case version => rintro rfl; rfl
  case reserved => intro hw; cases i <;> cases hw <;> rfl

/-- An operation without pulses completes at the accepting edge, with the response of the operation level. -/
theorem responseAfter_of_no_pulses {i : Instr} (hp : pulsesOf i = 0#32) (s : State) :
    responseAfter s i = (true, responseOf i s.driver) := by
  cases i with
  | step count => cases hp; rfl
  | stepOnce => cases hp
  | _ => rfl

theorem exec_seqState_of_no_pulses {i : Instr} {s t : State} (hp : pulsesOf i = 0#32) (h : exec i s = .next t) :
    t.seqState = s.seqState := by
  rcases exec_sequencer h with ⟨hq, _, _⟩ | ⟨n, _, rfl⟩
  · exact hq
  · have hresponse := (exec_response h).trans (responseAfter_of_no_pulses hp s)
    exact absurd (congrArg Prod.fst hresponse) Bool.false_ne_true

/-! ## The refinement (R9) -/

/-- The cycle level from `s` on keeps to the operation level of `i` over the `T` cycles of its events `es`. -/
def Refines (s : State) (i : Instr) (es : List OpEvent) (T : Nat) : Prop :=
  (∀ c ≤ T, ∃ t, runEdges (1 + c) s = .next t ∧ t.lines = levelsAt s.lines es c) ∧
  (∀ c < T, ∃ t, runEdges (1 + c) s = .next t ∧ t.busy = true ∧ t.rspValid = false) ∧
  ∃ t, runEdges (1 + T) s = .next t ∧ t.busy = false ∧ t.driver = driverAfter i s.driver ∧ t.rspValid = true ∧
    (t.rspStatus, t.rspData) = responseOf i s.driver

/-- A step operation: each cycle of its train is a cycle of its sequence, and what ends the sequence ends the operation. -/
theorem refines_of_stepAccepted {s : State} {i : Instr} {n : Word} (h : StepAccepted s n) (hp : pulsesOf i = n) :
    Refines s i (events Config.hasEn i s.driver) (2 * n.toNat * s.phaseCycles) := by
  obtain ⟨hevents, hdriver, hresponse⟩ := opLevel_of_pulsesOf hp h.some_pulse Config.hasEn s.driver
  obtain ⟨hbusy, _⟩ := sequenceCompletesAfterItsExactDuration s n _ h rfl
  refine ⟨fun c hc => ?_, hbusy, s.afterSequence n, runEdges_afterSequence h, ?_, ?_, rfl, ?_⟩
  · rw [hevents]; exact lines_of_stepAccepted h hc
  · exact bne_eq_false_iff_eq.2 h.idle
  · rw [hdriver]; rfl
  · rw [hresponse]; rfl

/-- Any other operation: it has no holds, and completes at the accepting edge. -/
theorem refines_of_no_pulses {s : State} {i : Instr} (hq : s.seqState = .idle) (hp : pulsesOf i = 0#32)
    (hstep : step s = exec i s.atEdge) : Refines s i (events Config.hasEn i s.driver) 0 := by
  obtain ⟨t, ht⟩ := exec_exists_next i s.atEdge
  have hrun : runEdges (1 + 0) s = .next t := runEdges_succ 0 (hstep.trans ht)
  have hresponse : t.response = (true, responseOf i s.driver) :=
    (exec_response ht).trans (responseAfter_of_no_pulses hp s.atEdge)
  have hidle : t.seqState = .idle := (exec_seqState_of_no_pulses hp ht).trans hq
  refine ⟨fun c hc => ?_, nofun, t, hrun, bne_eq_false_iff_eq.2 hidle, exec_driver (s := s.atEdge) ht,
    congrArg Prod.fst hresponse, congrArg Prod.snd hresponse⟩
  obtain rfl := Nat.le_zero.1 hc
  exact ⟨t, hrun, exec_lines (s := s.atEdge) hp ht⟩

/-- Settles O41: an operation has pulses, and then it is a sequence, or it has none, and then it has no holds. -/
theorem cycleLevelRefinesOperationLevel : Obligations.CycleLevelRefinesOperationLevel := by
  rintro s i es T hidle hrst hvalid hi rfl rfl hno
  change Refines s i _ _
  by_cases hp : pulsesOf i = 0#32
  · rw [eventCycles_events hp]
    exact refines_of_no_pulses hidle hp (hi ▸ step_of_accept s hrst hidle hvalid)
  · obtain ⟨hevents, _, _⟩ := opLevel_of_pulsesOf rfl hp Config.hasEn s.driver
    have hcycles : eventCycles (events Config.hasEn i s.driver) = 2 * (pulsesOf i).toNat * s.phaseCycles := by
      rw [hevents, eventCycles_pulseTrain]
      rfl
    rw [hcycles] at hno ⊢
    exact refines_of_stepAccepted ⟨hidle, ⟨hrst, hvalid⟩, hi ▸ rfl, hp, hno⟩ rfl

end Sys2Proof.Machine
end

section
/-! PROOFS. Settings: SETMODE has no history (R84) and makes a rising edge for three modes (R85, R175), SETDELAY stores its
operand (R100, R101), and the delay SETSPEED stores is bounded (R104, R106). -/

namespace Sys2Proof.Machine

open Sys2Proof.Claims

/-! ## SETMODE (R84) -/

/-- To drive a pattern that is driven already changes nothing (R46). -/
theorem writePattern_eq_self {s : State} {p : BitVec 4} (h : ∀ l, l ≠ .en → s.line l = p.getLsbD l.index) :
    s.writePattern p = s := by
  have hlines : (s.writePattern p).lines = s.lines := lines_ext fun l => by
    rw [State.writePattern_line]
    split
    · next hl => rw [hl]
    · next hl => exact (h l hl).symm
  calc
    s.writePattern p = s.setLines (s.writePattern p).lines := rfl
    _ = s := by rw [hlines]; rfl

/-- After SETMODE with the value of a mode the lines of the pattern show it, whatever they showed before. -/
theorem line_of_exec_setMode {m : StepMode} {s t : State} (h : exec (.setMode m.value) s = .next t) {l : Line} (hl : l ≠ .en) :
    t.line l = (Config.modeTable m).getLsbD l.index := by
  rw [exec_setMode_value] at h
  cases h
  rw [State.respond_line, State.setMode_line, State.writePattern_line, if_neg hl]

/-- SETMODE again with the mode just set changes nothing. -/
theorem exec_setMode_again {m : StepMode} {s t : State} (h : exec (.setMode m.value) s = .next t) :
    exec (.setMode m.value) t = .next t := by
  rw [exec_setMode_value, writePattern_eq_self fun l hl => line_of_exec_setMode h hl]
  rw [exec_setMode_value] at h
  cases h
  rfl

/-- Settles O25: the lines of the pattern are those of the mode table, in which 64 and 256 have one row. -/
theorem setModePatternHasNoHistory : Obligations.SetModePatternHasNoHistory := by
  refine ⟨fun a s t u v ha hu hv => ?pattern, fun s u v hu hv => ?equalRows⟩
  case pattern =>
    obtain ⟨m, rfl⟩ := (validMode_iff a).1 ha
    exact ⟨fun l hl => (line_of_exec_setMode hu hl).trans (line_of_exec_setMode hv hl).symm, exec_setMode_again hu⟩
  case equalRows =>
    have h64 := (exec_setMode_value .m64 s).symm.trans hu
    have h256 := (exec_setMode_value .m256 s).symm.trans hv
    cases h64
    cases h256
    exact ⟨rfl, (by decide : StepMode.m64 ≠ .m256)⟩

/-! ## The rising edge of SETMODE (R175) -/

/-- The modes whose pattern raises STEP are 2, 8 and 16 (R85). -/
theorem modeRaisesStep_iff (s : State) (m : StepMode) :
    modeRaisesStep s m = true ↔ s.line .step = false ∧ m.value ∈ [2#32, 8#32, 16#32] := by
  rw [modeRaisesStep, Bool.and_eq_true, Bool.not_eq_true']
  cases m <;> simp [Config.modeTable, StepMode.value]

/-- The hazard check lists the rising edge where there is one. -/
theorem modeRisingEdge_mem_hazards {a : Word} {m : StepMode} (h : modeOf a = some m) (s : State) :
    Hazard.modeRisingEdge ∈ hazards s (.setMode a) ↔ modeRaisesStep s m = true := by
  simp [hazards, modeHazards, h]

/-- Settles O26: a mode's pattern raises STEP where the hazard check says so, and an operand that names no mode drives none. -/
theorem setModeRaisesStepForModes2And8And16 : Obligations.SetModeRaisesStepForModes2And8And16 := by
  intro a s t h
  cases hm : modeOf a with
  | some m =>
    obtain rfl := (modeOf_eq_some a m).1 hm
    rw [exec_setMode_value] at h
    cases h
    have hrises : stepRises s (((s.writePattern (Config.modeTable m)).setMode m).respond .ok 0#32) = modeRaisesStep s m :=
      stepRises_writePattern s m
    rw [hrises]
    exact ⟨modeRaisesStep_iff s m, modeRisingEdge_mem_hazards hm s⟩
  | none =>
    rw [exec_setMode_of_modeOf_eq_none hm] at h
    cases h
    have hrises : stepRises s (s.respond .ok 0#32) = false := stepRises_of_line_eq s (s.respond .ok 0#32) rfl
    have hvalue := (modeOf_eq_none a).1 hm
    have hnone : a ∉ [2#32, 8#32, 16#32] := by
      simpa [StepMode.value] using And.intro (hvalue .m2).symm ⟨(hvalue .m8).symm, (hvalue .m16).symm⟩
    rw [hrises]
    exact ⟨iff_of_false Bool.false_ne_true fun ha => hnone ha.2, by simp [hazards, modeHazards, hm]⟩

/-! ## SETDELAY and SETSPEED -/

/-- Settles O29: opcode 1 is SETDELAY, which writes the delay and the response. -/
theorem setDelayStoresItsOperand : Obligations.SetDelayStoresItsOperand :=
  fun a _ => ⟨decode_ofFields 0x1#4 a, rfl⟩

/-- The two truncating divisions are one by the product (R104). -/
theorem speedDelay_toNat_eq_div_mul (spr rpm : Word) :
    (speedDelay spr rpm).toNat = 60000000 / (spr.toNat * rpm.toNat) := by
  rw [speedDelay_toNat, Nat.div_div_eq_div_mul]

/-- The quotient is 0 where the product exceeds the dividend (R106). -/
theorem speedDelay_eq_zero_iff {spr rpm : Word} (hspr : spr ≠ 0#32) (hrpm : rpm ≠ 0#32) :
    speedDelay spr rpm = 0#32 ↔ 60000000 < spr.toNat * rpm.toNat := by
  have hpos : 0 < spr.toNat * rpm.toNat := Nat.mul_pos (toNat_pos_of_ne_zero hspr) (toNat_pos_of_ne_zero hrpm)
  rw [← BitVec.toNat_inj, speedDelay_toNat_eq_div_mul, BitVec.toNat_ofNat, Nat.zero_mod, Nat.div_eq_zero_iff_lt hpos]

/-- Settles O32: the stored delay is a quotient of 60000000. -/
theorem setSpeedResultIsBoundedAndCanBeZero : Obligations.SetSpeedResultIsBoundedAndCanBeZero := by
  intro a s t ha hs h
  rw [stepDelayMicros_of_exec_setSpeed ha hs h]
  refine ⟨?bound, speedDelay_toNat_eq_div_mul _ _, speedDelay_eq_zero_iff hs ha⟩
  case bound => rw [speedDelay_toNat_eq_div_mul]; exact Nat.div_le_self _ _

end Sys2Proof.Machine
end
